-- ==== Sys2Proof/Word.lean ====
section
/-! DEFINITION. The one word of the BF Tape Engine: a byte (`00_scope.md` R8, R9). Indexes (`dp`, `ip`, `PSIZE`, the
scan's counter) are natural numbers, as R8 asks. -/

namespace Sys2Proof

/-- An unsigned 8-bit byte, bit 7 down to bit 0 (R8, R9): a tape cell, a program byte, an input or output byte. -/
abbrev Byte := BitVec 8

end Sys2Proof
end

