-- ==== Sys2Proof/Config.lean ====
section
/-! DEFINITION. The implementation parameters (`00_scope.md` R5 to R7), fixed for the engine's lifetime. -/

namespace Sys2Proof

/-- The parameters the spec leaves OPEN (R5 to R7, D1 to D3). A state carries its configuration, and no step changes it,
so a statement about every state is a statement about every configuration (log 1). -/
structure Config where
  /-- `TAPE_SIZE`, the number of tape cells; an engine exists only when it is at least 1 (R5, R175). -/
  tapeSize     : Nat
  /-- `PROG_CAPACITY`, the longest program LOAD accepts (R6). -/
  progCapacity : Nat
  /-- `EOF_BYTE`, what IN stores at end-of-input (R7). -/
  eofByte      : Byte
deriving DecidableEq, Repr

end Sys2Proof
end

