-- ==== Sys2Proof/Machine/Params.lean ====
section
/-! DEFINITION. The configuration that `State.reset` carries. No statement rests on these numbers: statements are
about every configuration (log 1). -/

namespace Sys2Proof.Machine

/-- DESIGN CHOICE (log 1): `TAPE_SIZE` 8 and `EOF_BYTE` 0xFF are the convention of `95_test_vectors.md` (0xFF is also
R7's default); `PROG_CAPACITY` 65536 admits every program of that file. The spec leaves all three OPEN (R5 to R7). -/
def referenceConfig : Config where
  tapeSize := 8
  progCapacity := 65536
  eofByte := 0xFF

end Sys2Proof.Machine
end

