-- ==== Sys2Proof/Machine/State.lean ====
section
/-! DEFINITION. The state of the BF Tape Engine and of the host's side of its interface, as plain data; the faults and
refusals; the state after reset. -/

namespace Sys2Proof.Machine

/-- A byte store in canonical form: addresses strictly rising, no listed byte equal to `unlistedByte`
(`Memory.wf` in Machine/Ops.lean). The tape and the program are two separate stores (`10_state.md` R32,
`20_memory.md` R40). -/
abbrev Memory := List Host.Cell

/-- An item of the input port: a byte or end-of-input (`42_io.md` R123). -/
inductive InItem where
  | byte (v : Byte)
  | eof
deriving DecidableEq, Repr

/-- The transfer in progress (`42_io.md` R121, R125): none, a byte offered and not yet taken, or an input item asked for
and not yet offered. -/
inductive Port where
  | idle
  | offering (v : Byte)
  | awaiting
deriving DecidableEq, Repr

/-- The command on whose behalf a step runs (`40_sequencer.md` R80, R88). -/
inductive Issuer where
  | step
  | run
deriving DecidableEq, Repr

/-- The three step results Continue, Halt and Error (`40_sequencer.md` R80, R86). -/
inductive StepResult where
  | cont
  | halt
  | error
deriving DecidableEq, Repr

/-- The host commands that are taken between steps (`60_exceptions.md` R181). RESET, which is taken at any time, is a
host move of its own. -/
inductive Command where
  /-- LOAD of a byte sequence (`70_reset_and_hazards.md` R204). -/
  | load (q : List Byte)
  /-- STEP (`40_sequencer.md` R80). -/
  | step
  /-- RUN (R88). -/
  | run
  /-- Reading every item of `10_state.md` R29. -/
  | observe
deriving DecidableEq, Repr

/-- What the host does at one machine step (`60_exceptions.md` R181; log 3, log 4). -/
inductive HostMove where
  /-- The host does nothing and the engine moves. -/
  | pause
  /-- RESET, at any time (`70_reset_and_hazards.md` R203). -/
  | reset
  /-- A command arrives (`70_reset_and_hazards.md` R212). -/
  | command (c : Command)
  /-- The host offers one more input item (`42_io.md` R125). -/
  | offer (x : InItem)
  /-- The host begins (true) or stops (false) taking output bytes (`42_io.md` R121). -/
  | setTaking (b : Bool)
deriving DecidableEq, Repr

/-- The host-visible items of `10_state.md` R29, in its order. -/
structure Observation where
  status       : BitVec 2
  ip           : Nat
  dp           : Nat
  psize        : Nat
  tapeSize     : Nat
  progCapacity : Nat
  eofByte      : Byte
  tape         : List Byte
  prog         : List Byte
deriving DecidableEq, Repr

/-- What the host gets back from a command (`60_exceptions.md` R181). -/
inductive Response where
  /-- A STEP's result (`40_sequencer.md` R86). -/
  | step (r : StepResult)
  /-- A RUN's result (R88). -/
  | run (r : StepResult)
  /-- LOADOK and LOADFAILURE (`70_reset_and_hazards.md` R204, `60_exceptions.md` R176). -/
  | loadOK
  | loadFailure
  /-- The values observed (`10_state.md` R29). -/
  | observed (o : Observation)
deriving DecidableEq, Repr

/-- The architectural state of `10_state.md` R20, exactly its six rows. -/
structure Arch where
  tape  : Memory
  dp    : Nat
  prog  : Memory
  psize : Nat
  ip    : Nat
  err   : Bool
deriving DecidableEq, Repr

/-- The whole machine: configuration, architectural state, transfers and commands in progress, and the host's side. -/
structure State where
  /-- `TAPE_SIZE`, `PROG_CAPACITY`, `EOF_BYTE`; read-only (R29; log 1). -/
  cfg       : Config
  /-- `tape[0 .. TAPE_SIZE-1]` (R21). -/
  tape      : Memory
  /-- The data pointer (R22). -/
  dp        : Nat
  /-- `prog[0 .. PSIZE-1]` (R23). -/
  prog      : Memory
  /-- `PSIZE` (R24). -/
  psize     : Nat
  /-- The instruction pointer (R25). -/
  ip        : Nat
  /-- The error latch (R26). -/
  err       : Bool
  /-- The transfer in progress (R201, `42_io.md` R121, R125). -/
  port      : Port
  /-- The command whose step is waiting at a port (R203, R212). -/
  busy      : Option Issuer
  /-- How many RUN commands are in progress (`40_sequencer.md` R88; log 5). -/
  runs      : Nat
  /-- Commands that have arrived and are not yet taken, oldest first (R212). -/
  pending   : List Command
  /-- The host's coming moves, next first; past the last one the host does nothing (log 3). -/
  moves     : List HostMove
  /-- Input items offered and not yet taken, oldest first (R123, R125). -/
  input     : List InItem
  /-- Whether the host takes output bytes now (R121). -/
  taking    : Bool
  /-- The output bytes the host has taken, oldest first (R89, R122). -/
  output    : List Byte
  /-- The answers the host has got back, oldest first (R181). -/
  responses : List Response
deriving DecidableEq, Repr

/-- Why the machine stops although the spec has no such stop. Both are about states that no run reaches (log 2). -/
inductive Fault where
  /-- An instruction touches the current cell while `dp` is not below `TAPE_SIZE`: the address does not exist
  (`20_memory.md` R42, R48). Raised by INC, DEC, OUT, IN, JZ, JNZ. Safe: the spec keeps `dp` in range (R22). -/
  | tapeAddress
  /-- A backward scan starts above `PSIZE`, so its first address does not exist (`20_memory.md` R43, R48). Raised by JNZ,
  and never in a machine step, whose halt check comes first (R82). Safe. -/
  | programAddress
deriving DecidableEq, Repr

/-- Why there is no next step. -/
inductive Refusal where
  /-- An instruction that has no meaning yet, by its mnemonic. Safe. No arm of `exec` raises it. -/
  | notModelled (mnemonic : String)
  /-- `TAPE_SIZE = 0`: no engine exists, and the model rejects it before any step (`60_exceptions.md` R175). Raised by
  `step`. Safe. -/
  | tapeSizeZero
deriving DecidableEq, Repr

/-- What an instruction or a step answers. -/
abbrev Result := Host.Outcome State Fault Refusal

/-- The engine right after RESET, at a given configuration, with a host that has asked nothing and offered nothing.
Engine fields: `70_reset_and_hazards.md` R200, R201. Host fields: DESIGN CHOICE (log 3). -/
def State.resetWith (c : Config) : State where
  cfg := c
  tape := []
  dp := 0
  prog := []
  psize := 0
  ip := 0
  err := false
  port := .idle
  busy := none
  runs := 0
  pending := []
  moves := []
  input := []
  taking := true
  output := []
  responses := []

/-- The machine right after reset (R200, R201) at the reference configuration (log 1). -/
def State.reset : State := State.resetWith referenceConfig

end Sys2Proof.Machine
end

