-- ==== Sys2Proof/Machine/Flags.lean ====
section
/-! DEFINITION. The engine has no flags (`10_state.md` R28). Its one condition and its one status code, both computed
and stored nowhere. -/

namespace Sys2Proof.Machine

/-- The zero test of JZ and JNZ (`43_loop.md` R140): only 0x00 counts as zero. -/
def zeroTest (v : Byte) : Bool := v == 0

/-- STATUS (`10_state.md` R27): ERROR, HALTED or READY. -/
def State.status (s : State) : BitVec 2 :=
  if s.err then 0b10
  else if s.psize ≤ s.ip then 0b01
  else 0b00

end Sys2Proof.Machine
end

