-- ==== Sys2Proof/Machine/Ops.lean ====
section
/-! DEFINITION. The shared operations: byte stores, the pointer unit, the ALU, the advance of `ip`, the error outcome,
RESET, LOAD, observe, and the answers to the host. -/

namespace Sys2Proof.Machine

/-! ### Byte stores -/

/-- What an unlisted address reads as: 0x00, the reset contents of the tape (`70_reset_and_hazards.md` R201). In the
program store every address below `PSIZE` was written by LOAD, so an unlisted one there holds a loaded 0x00 (log 9). -/
abbrev unlistedByte : Byte := 0

/-- The canonical form: addresses strictly rising, no listed byte equal to `unlistedByte`. -/
abbrev Memory.wf (m : Memory) : Prop :=
  m.Pairwise (fun x y => x.1 < y.1) ∧ ∀ c ∈ m, c.2 ≠ unlistedByte

/-- Every listed address is below `n` (`20_memory.md` R48). -/
abbrev Memory.below (m : Memory) (n : Nat) : Prop :=
  ∀ c ∈ m, c.1 < n

/-- The byte at address `a`; reading has no side effect (`20_memory.md` R47). -/
def Memory.read : Memory → Nat → Byte
  | [], _ => unlistedByte
  | (b, w) :: m, a => if b = a then w else Memory.read m a

/-- Replace the whole byte at address `a` (`20_memory.md` R47), keeping the canonical form. -/
def Memory.write : Memory → Nat → Byte → Memory
  | [], a, v => if v = unlistedByte then [] else [(a, v)]
  | (b, w) :: m, a, v =>
    if a < b then (if v = unlistedByte then (b, w) :: m else (a, v) :: (b, w) :: m)
    else if a = b then (if v = unlistedByte then m else (a, v) :: m)
    else (b, w) :: Memory.write m a v

/-- The store that holds the bytes `q` from address `a` on and nothing else. -/
def Memory.ofBytes (a : Nat) : List Byte → Memory
  | [] => []
  | v :: q => if v = unlistedByte then Memory.ofBytes (a + 1) q else (a, v) :: Memory.ofBytes (a + 1) q

/-- The bytes at the addresses below `n`, in address order. -/
def Memory.toBytes (m : Memory) (n : Nat) : List Byte :=
  (List.range n).map (Memory.read m)

/-! ### The pointer unit and the ALU (`41_tape.md`) -/

/-- `PtrDec` at tape size `n` (R100). -/
def ptrDec (n p : Nat) : Nat := if p = 0 then n - 1 else p - 1

/-- `PtrInc` at tape size `n` (R100). -/
def ptrInc (n p : Nat) : Nat := if p = n - 1 then 0 else p + 1

/-- `AluInc` (R101): computed on the unsigned value, then narrowed. -/
def aluInc (v : Byte) : Byte := BitVec.ofNat 8 ((v.toNat + 1) % 256)

/-- `AluDec` (R101), in its form `(v + 255) mod 256`. -/
def aluDec (v : Byte) : Byte := BitVec.ofNat 8 ((v.toNat + 255) % 256)

/-! ### The program counter and the error outcome -/

/-- `Fetch(a)`: one program byte (`00_scope.md` R10, `40_sequencer.md` R83). -/
def State.fetch (s : State) (a : Nat) : Byte := s.prog.read a

/-- `ip <- ip + 1` (`40_sequencer.md` R85). -/
def State.advance (s : State) : State := { s with ip := s.ip + 1 }

/-- `ip <- target`, before the advance (`43_loop.md` R143, R144). -/
def State.jumpTo (s : State) (m : Nat) : State := { s with ip := m }

/-- `raise UnmatchedBracket(ip)` (`60_exceptions.md` R171): the latch is set, nothing else is written, `ip` is not
advanced. There is no trap entry and no return from it (R173, R174). -/
def State.raiseUnmatched (s : State) : State := { s with err := true }

/-! ### The other named updates -/

/-- `dp <- v` (`00_scope.md` R10). -/
def State.setDp (s : State) (v : Nat) : State := { s with dp := v }

/-- The waiting commands become `cs` (`70_reset_and_hazards.md` R212). -/
def State.setPending (s : State) (cs : List Command) : State := { s with pending := cs }

/-- The host's coming moves become `ms`. -/
def State.setMoves (s : State) (ms : List HostMove) : State := { s with moves := ms }

/-- The items on offer become `xs`. -/
def State.setInput (s : State) (xs : List InItem) : State := { s with input := xs }

/-- The host begins or stops taking output bytes. -/
def State.setTaking (s : State) (b : Bool) : State := { s with taking := b }

/-- One RUN more is in progress (`40_sequencer.md` R88). -/
def State.startRun (s : State) : State := { s with runs := s.runs + 1 }

/-- The step stays in progress for its command, waiting at a port (`70_reset_and_hazards.md` R203). -/
def State.keepWaiting (s : State) (who : Issuer) : State := { s with busy := some who }

/-! ### The architectural state and what the host sees -/

/-- The six rows of `10_state.md` R20. -/
def State.arch (s : State) : Arch where
  tape := s.tape
  dp := s.dp
  prog := s.prog
  psize := s.psize
  ip := s.ip
  err := s.err

/-- The host-visible items (`10_state.md` R29). -/
def State.observation (s : State) : Observation where
  status := s.status
  ip := s.ip
  dp := s.dp
  psize := s.psize
  tapeSize := s.cfg.tapeSize
  progCapacity := s.cfg.progCapacity
  eofByte := s.cfg.eofByte
  tape := s.tape.toBytes s.cfg.tapeSize
  prog := s.prog.toBytes s.psize

/-! ### RESET and LOAD (`70_reset_and_hazards.md`) -/

/-- RESET (R200, R203): every piece of engine state takes its reset value, a waiting step is abandoned, every RUN in
progress ends with no result. The configuration and the host's side stay as they are (R200, R182; log 6). -/
def State.resetEngine (s : State) : State :=
  { s with
    tape := [], dp := 0, prog := [], psize := 0, ip := 0, err := false,
    port := .idle, busy := none, runs := 0 }

/-- The host gets an answer back (`60_exceptions.md` R181). -/
def State.respond (s : State) (r : Response) : State :=
  { s with responses := s.responses ++ [r] }

/-- The engine's part of a LOAD that fits (R204): program and `PSIZE` replaced, `ip`, `dp` and `err` set to 0, the tape
kept (R205). -/
def State.replaceProgram (s : State) (q : List Byte) : State :=
  { s with prog := Memory.ofBytes 0 q, psize := q.length, ip := 0, dp := 0, err := false }

/-- LOAD (R204): a program longer than `PROG_CAPACITY` fails and changes no engine state (`60_exceptions.md` R176). -/
def State.load (s : State) (q : List Byte) : State :=
  if s.cfg.progCapacity < q.length then s.respond .loadFailure
  else (s.replaceProgram q).respond .loadOK

/-! ### The end of a step -/

/-- A step ends with result `r` (`40_sequencer.md` R86, R88): STEP hands it to the host; RUN goes on after Continue, and
otherwise ends and hands the result to the host. -/
def State.answer (s : State) : Issuer → StepResult → State
  | .step, r => { s with busy := none, responses := s.responses ++ [.step r] }
  | .run, .cont => { s with busy := none }
  | .run, .halt => { s with busy := none, runs := s.runs - 1, responses := s.responses ++ [.run .halt] }
  | .run, .error => { s with busy := none, runs := s.runs - 1, responses := s.responses ++ [.run .error] }

end Sys2Proof.Machine
end

