-- ==== Sys2Proof/Machine/Operands.lean ====
section
/-! DEFINITION. The implicit operands of every instruction (`30_encoding.md` R63): the current cell and the two ports. -/

namespace Sys2Proof.Machine

/-- The current cell `tape[dp]` (`10_state.md` R21, `20_memory.md` R41). -/
def State.cell (s : State) : Byte := s.tape.read s.dp

/-- `tape[dp] <- v`. -/
def State.setCell (s : State) (v : Byte) : State := { s with tape := s.tape.write s.dp v }

/-- Guard of every access to the current cell: the address exists (`20_memory.md` R42, R48; log 2). -/
def State.onTape (s : State) (r : Result) : Result :=
  if s.dp < s.cfg.tapeSize then r else .fault .tapeAddress

/-- What IN stores for an item (`42_io.md` R126). -/
def InItem.value (eofByte : Byte) : InItem → Byte
  | .byte v => v
  | .eof => eofByte

/-- `OutPut(v)` has happened: the host took `v` (`42_io.md` R121). -/
def State.handOver (s : State) (v : Byte) : State :=
  { s with port := .idle, output := s.output ++ [v] }

/-- `OutPut(v)` waits: `v` is on offer and not taken (R121, R127). -/
def State.waitOffering (s : State) (v : Byte) : State := { s with port := .offering v }

/-- `InGet()` has happened: the oldest offered item is consumed and `rest` is left (R125). -/
def State.takeInput (s : State) (rest : List InItem) : State :=
  { s with port := .idle, input := rest }

/-- `InGet()` waits: no item is on offer (R125, R127). -/
def State.waitAwaiting (s : State) : State := { s with port := .awaiting }

end Sys2Proof.Machine
end

