-- ==== Sys2Proof/Machine/Io.lean ====
section
/-! DEFINITION. The I/O instructions OUT and IN (`42_io.md`). A wait at a port is a next state in which the transfer is in
progress and nothing else has changed; the step is tried again until the host serves it (R121, R125; log 7). -/

namespace Sys2Proof.Machine

/-- OUT (R122). -/
def execOut (s : State) : Result :=
  s.onTape
    (if s.taking then .next (s.handOver s.cell).advance
     else .next (s.waitOffering s.cell))

/-- IN (R126): the old cell value is not read; at end-of-input the cell is still written. -/
def execInp (s : State) : Result :=
  match s.input with
  | [] => .next s.waitAwaiting
  | x :: rest => s.onTape (.next ((s.takeInput rest).setCell (x.value s.cfg.eofByte)).advance)

end Sys2Proof.Machine
end

