-- ==== Sys2Proof/Syntax.lean ====
section
/-! DEFINITION. The instruction set: the nine rows of spec/opcode_table.json (`30_encoding.md` R61, R62). -/

namespace Sys2Proof

/-- The nine instructions (R61, R62). No instruction has an operand field (R63); NOP carries the byte it was decoded from,
because 248 bytes stand for it (R64; log 11), and that byte has no effect. -/
inductive Instr where
  /-- LEFT, `<` (`41_tape.md` R102). -/
  | left
  /-- RIGHT, `>` (R103). -/
  | right
  /-- INC, `+` (R104). -/
  | inc
  /-- DEC, `-` (R105). -/
  | dec
  /-- OUT, `.` (`42_io.md` R122). -/
  | out
  /-- IN, `,` (R126). -/
  | inp
  /-- JZ, `[`, loop-enter (`43_loop.md` R143). -/
  | jz
  /-- JNZ, `]`, loop-exit (R144). -/
  | jnz
  /-- NOP, any other byte (`40_sequencer.md` R87). -/
  | nop (b : Byte)
deriving DecidableEq, Repr

end Sys2Proof
end

