-- ==== Sys2Proof/Decode.lean ====
section
/-! DEFINITION. Decoding and encoding (`30_encoding.md`): the opcode bytes, the total decoder of one byte, the decoder
of a byte sequence, the encoder, and the host's `decodeTableWord`. -/

namespace Sys2Proof

/-- `<` (R61). -/
abbrev opLEFT : Byte := 0x3C
/-- `>` (R61). -/
abbrev opRIGHT : Byte := 0x3E
/-- `+` (R61). -/
abbrev opINC : Byte := 0x2B
/-- `-` (R61). -/
abbrev opDEC : Byte := 0x2D
/-- `.` (R61). -/
abbrev opOUT : Byte := 0x2E
/-- `,` (R61). -/
abbrev opIN : Byte := 0x2C
/-- `[` (R61). -/
abbrev opJZ : Byte := 0x5B
/-- `]` (R61). -/
abbrev opJNZ : Byte := 0x5D

/-- The eight bytes that are not NOP (R61, R87). -/
def opcodeBytes : List Byte :=
  [opLEFT, opRIGHT, opINC, opDEC, opOUT, opIN, opJZ, opJNZ]

/-- `Decode` of R62: the whole byte is compared, every byte decodes. -/
def decodeByte (b : Byte) : Instr :=
  if b = opLEFT then .left
  else if b = opRIGHT then .right
  else if b = opINC then .inc
  else if b = opDEC then .dec
  else if b = opOUT then .out
  else if b = opIN then .inp
  else if b = opJZ then .jz
  else if b = opJNZ then .jnz
  else .nop b

/-- Why a byte sequence has no first instruction. -/
inductive DecodeReject where
  /-- The sequence is empty; no byte is itself rejected (R64). Raised by `decode` only; the Stepper never decodes an
  absent byte, because the halt check comes first (R82, R83). Safe. -/
  | noByte
deriving DecidableEq, Repr

/-- The first instruction of a byte sequence and the bytes after it: every instruction is one byte (R60, R66). -/
def decode : List Byte → Except DecodeReject (Instr × List Byte)
  | [] => .error .noByte
  | b :: rest => .ok (decodeByte b, rest)

/-- The program text read as instructions: instruction `a` is byte `a` (R60, R67). -/
def decodeProgram (bytes : List Byte) : List Instr :=
  bytes.map decodeByte

/-- The byte of an instruction (R61); a NOP keeps the byte it stands for (R87). -/
def encode : Instr → Byte
  | .left => opLEFT
  | .right => opRIGHT
  | .inc => opINC
  | .dec => opDEC
  | .out => opOUT
  | .inp => opIN
  | .jz => opJZ
  | .jnz => opJNZ
  | .nop b => b

/-- A program's bytes, in address order (R67). -/
def encodeProgram (is : List Instr) : List Byte :=
  is.map encode

/-- The one byte of an instruction whose table bits are `w`: the bits above `nbits` are 0. -/
def tableByte (nbits w : Nat) : Byte :=
  BitVec.ofNat 8 (w % 2 ^ nbits)

/-- What the decoder reads from a word of spec/opcode_table.json; no instruction is longer than 8 bits (R60, R66). -/
def decodeTableWord (nbits w : Nat) : Option Instr :=
  if 8 < nbits then none
  else
    match decode [tableByte nbits w] with
    | .ok (i, _) => some i
    | .error _ => none

end Sys2Proof
end

