-- ==== Sys2Proof/Machine/Loop.lean ====
section
/-! DEFINITION. The bracket scans and the loop instructions JZ and JNZ (`43_loop.md`). -/

namespace Sys2Proof.Machine

/-- The nesting counter after reading byte `b`: `own`, the scanning bracket's own byte, adds 1, its `partner` takes 1
away, every other byte is passed over (R141, R142, R151). The counter is at least 1 whenever a byte is read (R146). -/
def nestDepth (own partner b : Byte) (depth : Nat) : Nat :=
  if b = own then depth + 1
  else if b = partner then depth - 1
  else depth

/-- The loop of `ScanForward` (R141) with `n` addresses left, at address `j`. -/
def scanUp (m : Memory) : Nat → Nat → Nat → Option Nat
  | 0, _, _ => none
  | n + 1, depth, j =>
    if nestDepth opJZ opJNZ (m.read j) depth = 0 then some j
    else scanUp m n (nestDepth opJZ opJNZ (m.read j) depth) (j + 1)

/-- The loop of `ScanBackward` (R142); the first number is `j + 1`, so that 0 stands for the signed index -1, at which the
scan stops (R149). -/
def scanDown (m : Memory) : Nat → Nat → Option Nat
  | 0, _ => none
  | j + 1, depth =>
    if nestDepth opJNZ opJZ (m.read j) depth = 0 then some j
    else scanDown m j (nestDepth opJNZ opJZ (m.read j) depth)

/-- `ScanForward(a)` (R141): it reads `prog[a+1 .. PSIZE-1]` in rising order. -/
def State.scanForward (s : State) (a : Nat) : Option Nat :=
  scanUp s.prog (s.psize - (a + 1)) 1 (a + 1)

/-- `ScanBackward(a)` (R142): it reads `prog[a-1]` down to `prog[0]`. -/
def State.scanBackward (s : State) (a : Nat) : Option Nat :=
  scanDown s.prog a 1

/-- What a bracket that calls for a scan does with its result: jump to the match and advance past it (R145), or raise
UnmatchedBracket (`60_exceptions.md` R171). -/
def State.branch (s : State) : Option Nat → State
  | some m => (s.jumpTo m).advance
  | none => s.raiseUnmatched

/-- JZ (R143): the scan runs only when the current cell is zero (R148). -/
def execJz (s : State) : Result :=
  s.onTape
    (if zeroTest s.cell then .next (s.branch (s.scanForward s.ip))
     else .next s.advance)

/-- JNZ (R144): the scan runs only when the current cell is not zero (R148). -/
def execJnz (s : State) : Result :=
  s.onTape
    (if zeroTest s.cell then .next s.advance
     else if s.psize < s.ip then .fault .programAddress
     else .next (s.branch (s.scanBackward s.ip)))

end Sys2Proof.Machine
end

