-- ==== Sys2Proof/Machine/Sequencer.lean ====
section
/-! DEFINITION. The one instruction with no effect of its own, NOP (`40_sequencer.md` R87). -/

namespace Sys2Proof.Machine

/-- NOP (R87): `ip` advances, nothing else changes. -/
def execNop (s : State) : Result := .next s.advance

end Sys2Proof.Machine
end

