-- ==== Sys2Proof/Machine/Tape.lean ====
section
/-! DEFINITION. The tape instructions LEFT, RIGHT, INC, DEC (`41_tape.md`). -/

namespace Sys2Proof.Machine

/-- LEFT (R102). The tape is not touched, so no cell has to exist. -/
def execLeft (s : State) : Result :=
  .next (s.setDp (ptrDec s.cfg.tapeSize s.dp)).advance

/-- RIGHT (R103). -/
def execRight (s : State) : Result :=
  .next (s.setDp (ptrInc s.cfg.tapeSize s.dp)).advance

/-- INC (R104). -/
def execInc (s : State) : Result :=
  s.onTape (.next (s.setCell (aluInc s.cell)).advance)

/-- DEC (R105). -/
def execDec (s : State) : Result :=
  s.onTape (.next (s.setCell (aluDec s.cell)).advance)

end Sys2Proof.Machine
end

