-- ==== Sys2Proof/WellFormed.lean ====
section
/-! DEFINITION. Which terms of the syntax and which configurations the hardware has. -/

namespace Sys2Proof

/-- A NOP's byte is none of the eight opcodes (`30_encoding.md` R64, `40_sequencer.md` R87); every other instruction
has no field to check (R63). -/
def Instr.wf : Instr → Bool
  | .nop b => !opcodeBytes.contains b
  | .left | .right | .inc | .dec | .out | .inp | .jz | .jnz => true

/-- `TAPE_SIZE` is at least 1 (`00_scope.md` R5, `60_exceptions.md` R175). -/
def Config.wf (c : Config) : Bool :=
  decide (0 < c.tapeSize)

end Sys2Proof
end

