-- ==== Sys2Proof/Machine/Driver.lean ====
section
/-! DEFINITION. The Stepper, the Driver and the host's moves: everything a machine step does around `exec`. -/

namespace Sys2Proof.Machine

/-- After the instruction (R85, R86, `60_exceptions.md` R171): a step that waits at a port stays in progress for its
command; one that raised ends with Error; any other ends with Continue. -/
def State.settle (s : State) (who : Issuer) : State :=
  match s.port with
  | .idle => s.answer who (if s.err then .error else .cont)
  | .offering _ => s.keepWaiting who
  | .awaiting => s.keepWaiting who

/-- `settle` on what the instruction answered. -/
def settleResult (who : Issuer) : Result → Result
  | .next s => .next (s.settle who)
  | .fault r => .fault r
  | .refused r => .refused r

/-- One invocation of the Stepper for a command (`40_sequencer.md` R80): latch check (R81), halt check (R82), fetch
(R83), dispatch (R84), and the end of the step. A waiting step is resumed by the same pass: nothing it reads has
changed since (log 7). -/
def stepper (who : Issuer) (s : State) : Result :=
  if s.err then .next (s.answer who .error)
  else if s.psize ≤ s.ip then .next (s.answer who .halt)
  else settleResult who (exec (decodeByte (s.fetch s.ip)) s)

/-- A waiting command is taken (`60_exceptions.md` R181). RUN begins here and its steps follow (R88; log 5). -/
def serve (c : Command) (s : State) : Result :=
  match c with
  | .load q => .next (s.load q)
  | .step => stepper .step s
  | .run => .next s.startRun
  | .observe => .next (s.respond (.observed s.observation))

/-- The engine's move: a waiting step goes on; between steps the oldest waiting command is taken (R212); with none, a RUN
in progress takes its next step (R88); with nothing to do the engine is quiescent (`60_exceptions.md` R185). -/
def engineMove (s : State) : Result :=
  match s.busy, s.pending, s.runs with
  | some who, _, _ => stepper who s
  | none, c :: rest, _ => serve c (s.setPending rest)
  | none, [], 0 => .next s
  | none, [], _ + 1 => stepper .run s

/-- What a host move does (`60_exceptions.md` R181). A command only arrives here; `pause` changes nothing. -/
def HostMove.apply : HostMove → State → State
  | .pause, s => s
  | .reset, s => s.resetEngine
  | .command c, s => s.setPending (s.pending ++ [c])
  | .offer x, s => s.setInput (s.input ++ [x])
  | .setTaking b, s => s.setTaking b

/-- One move of the host or of the engine: the host's next move if it has one, and the engine's when the host pauses or
has no further move (log 4). -/
def turn (s : State) : Result :=
  match s.moves with
  | [] => engineMove s
  | .pause :: rest => engineMove (s.setMoves rest)
  | m :: rest => .next (m.apply (s.setMoves rest))

/-- A machine step. `TAPE_SIZE = 0` is rejected before any step (`60_exceptions.md` R175). -/
def machineStep (s : State) : Result :=
  if s.cfg.wf then turn s else .refused .tapeSizeZero

/-- The state whose very next machine step fetches and runs the instruction byte `b`: the byte stands in the program at
`ip`, a RUN is in progress, no latch, wait, waiting command or host move comes before it (log 10). -/
def State.placeInstruction (s : State) (b : Byte) : State :=
  { s with
    prog := s.prog.write s.ip b
    psize := max s.psize (s.ip + 1)
    err := false
    port := .idle
    busy := none
    runs := max s.runs 1
    pending := []
    moves := [] }

end Sys2Proof.Machine
end

