-- ==== Sys2Proof/Machine/Step.lean ====
section
/-! DEFINITION. The step function of the machine, and the state that runs a given instruction next. -/

namespace Sys2Proof.Machine

/-- One machine step: one move of the host or of the engine (`40_sequencer.md` R80, R88, `60_exceptions.md` R181). -/
def step (s : State) : Host.Outcome State Fault Refusal := machineStep s

/-- `s` with the table word `w` standing where the next step fetches, and a RUN in progress (log 10). -/
def State.withFetchWord (s : State) (nbits w : Nat) : State :=
  s.placeInstruction (tableByte nbits w)

end Sys2Proof.Machine
end

