-- ==== Sys2Proof/Safety.lean ====
section
/-! DEFINITION. What a consistent state is, what an error state means, what a balanced program is: the terms the
statements use. -/

namespace Sys2Proof.Machine

/-- The transfer in progress, the waiting command and the current instruction agree (`42_io.md` R121, R125, R127): a
step waits exactly while a transfer is in progress, and only OUT (offering the current cell) and IN wait. -/
def State.WaitConsistent (s : State) : Prop :=
  match s.port with
  | .idle => s.busy = none
  | .offering v =>
    s.busy ≠ none ∧ s.err = false ∧ s.ip < s.psize ∧ decodeByte (s.fetch s.ip) = .out ∧ v = s.cell
  | .awaiting =>
    s.busy ≠ none ∧ s.err = false ∧ s.ip < s.psize ∧ decodeByte (s.fetch s.ip) = .inp

/-- A consistent state: an engine exists, both stores are canonical and hold only addresses that exist, the pointers are
in range (`40_sequencer.md` R90), and the commands in progress agree with the transfer in progress. -/
structure State.Inv (s : State) : Prop where
  tapeSize_pos : 0 < s.cfg.tapeSize
  tape_wf      : s.tape.wf
  tape_below   : s.tape.below s.cfg.tapeSize
  dp_lt        : s.dp < s.cfg.tapeSize
  prog_wf      : s.prog.wf
  prog_below   : s.prog.below s.psize
  ip_le        : s.ip ≤ s.psize
  psize_le     : s.psize ≤ s.cfg.progCapacity
  wait         : s.WaitConsistent
  run_waits    : s.busy = some .run → 0 < s.runs

/-- What the host can read after an UnmatchedBracket (`60_exceptions.md` R172): while the latch is set, `ip` is the
address of a bracket whose condition called for a scan that found no match. -/
def State.ErrorCause (s : State) : Prop :=
  s.err = true →
    s.ip < s.psize ∧
      ((s.fetch s.ip = opJZ ∧ s.cell = 0 ∧ s.scanForward s.ip = none) ∨
       (s.fetch s.ip = opJNZ ∧ s.cell ≠ 0 ∧ s.scanBackward s.ip = none))

/-- The nesting a byte adds: `[` opens, `]` closes, no other byte counts (`43_loop.md` R151). -/
def bracketValue (b : Byte) : Int :=
  if b = opJZ then 1 else if b = opJNZ then -1 else 0

/-- Opening minus closing brackets among the program bytes below address `a`, defined without any scan. -/
def State.nesting (s : State) : Nat → Int
  | 0 => 0
  | a + 1 => State.nesting s a + bracketValue (s.fetch a)

/-- A balanced program (`43_loop.md` R152): its bracket bytes, read alone, are well nested. -/
def State.Balanced (s : State) : Prop :=
  (∀ a, a ≤ s.psize → 0 ≤ s.nesting a) ∧ s.nesting s.psize = 0

/-- `s` and `t` have the same architectural state and the same transfers with the host's streams: nothing R20 or the
ports hold has changed. -/
def State.SameEngine (s t : State) : Prop :=
  t.arch = s.arch ∧ t.cfg = s.cfg ∧ t.input = s.input ∧ t.output = s.output

/-- The machine never stops with a fault or a refusal within `k` steps from `s`. -/
def SafeRun (k : Nat) (s : State) : Prop :=
  ∃ t, Sys2Proof.core.run k s = .next t

end Sys2Proof.Machine
end

