-- ==== Sys2Proof/Certificates/Slice0/Obligations.lean ====
section
/-! DEFINITION. The statements for the provers. Each docstring names the rule of spec/ it formalises, and the spec's
decision (D), general-knowledge passage (GK) or log entry its clauses rest on, if any. -/

open Sys2Proof Sys2Proof.Machine

/-! ### Encoding (`30_encoding.md`) -/

/-- R61, R62: the eight opcode bytes decode to their instructions, and neighbouring bytes are NOPs. The byte values are
ASCII (D4, GK1). -/
def Obligations.OpcodeBytesDecode : Prop :=
  decodeByte 0x3C = .left ∧ decodeByte 0x3E = .right ∧ decodeByte 0x2B = .inc ∧ decodeByte 0x2D = .dec ∧
  decodeByte 0x2E = .out ∧ decodeByte 0x2C = .inp ∧ decodeByte 0x5B = .jz ∧ decodeByte 0x5D = .jnz ∧
  decodeByte 0xBC = .nop 0xBC ∧ decodeByte 0x00 = .nop 0x00 ∧ decodeByte 0xFF = .nop 0xFF

/-- R62, R64: every byte decodes, to a well-formed instruction whose encoding is that byte, and the NOPs are exactly the
bytes outside the eight opcodes. -/
def Obligations.EveryByteDecodes : Prop :=
  ∀ b : Byte, encode (decodeByte b) = b ∧ (decodeByte b).wf = true ∧
    (decodeByte b = .nop b ↔
      b ≠ 0x3C ∧ b ≠ 0x3E ∧ b ≠ 0x2B ∧ b ≠ 0x2D ∧ b ≠ 0x2E ∧ b ≠ 0x2C ∧ b ≠ 0x5B ∧ b ≠ 0x5D)

/-- R60, R67, R204: a program of well-formed instructions, encoded and loaded, is fetched and decoded back, instruction
`a` at address `a`. -/
def Obligations.LoadedProgramDecodesBack : Prop :=
  ∀ (s : State) (is : List Instr), (∀ i ∈ is, i.wf = true) → is.length ≤ s.cfg.progCapacity →
    (s.load (encodeProgram is)).psize = is.length ∧
    (∀ (a : Nat) (h : a < is.length), decodeByte ((s.load (encodeProgram is)).fetch a) = is[a]) ∧
    decodeProgram ((s.load (encodeProgram is)).prog.toBytes is.length) = is

/-! ### Reset, configuration, status (`10_state.md`, `70_reset_and_hazards.md`) -/

/-- R200, R201, R202: RESET leaves every tape cell 0, `dp`, `ip` and `PSIZE` 0, `err` 0, STATUS HALTED, no transfer in
progress, and the configuration as it was; `State.reset` is such a state. -/
def Obligations.ResetLeavesResetValues : Prop :=
  (∀ s : State,
    (∀ a, s.resetEngine.tape.read a = 0) ∧ s.resetEngine.dp = 0 ∧ s.resetEngine.ip = 0 ∧
    s.resetEngine.psize = 0 ∧ s.resetEngine.err = false ∧ s.resetEngine.status = 0b01 ∧
    s.resetEngine.port = .idle ∧ s.resetEngine.cfg = s.cfg) ∧
  State.reset.arch = State.reset.resetEngine.arch ∧ State.reset.port = .idle

/-- R203: RESET is taken at any machine step, also while a step waits at a port or a RUN is in progress: the wait is
abandoned (nothing handed over, no item taken, no answer) and every RUN ends. That the waiting commands and the host's
streams stay is the model's reading (log 6). -/
def Obligations.ResetIsTakenAtAnyTime : Prop :=
  ∀ (s : State) (rest : List HostMove), 0 < s.cfg.tapeSize → s.moves = .reset :: rest →
    ∃ t, step s = .next t ∧
      t.arch = State.reset.arch ∧ t.port = .idle ∧ t.busy = none ∧ t.runs = 0 ∧ t.cfg = s.cfg ∧
      t.input = s.input ∧ t.output = s.output ∧ t.responses = s.responses ∧ t.pending = s.pending ∧
      t.taking = s.taking ∧ t.moves = rest

/-- R27: STATUS is ERROR, HALTED or READY by the latch and `ip`, and is never 0b11. -/
def Obligations.StatusCodesTheState : Prop :=
  ∀ s : State,
    (s.status = 0b10 ↔ s.err = true) ∧
    (s.status = 0b01 ↔ s.err = false ∧ s.psize ≤ s.ip) ∧
    (s.status = 0b00 ↔ s.err = false ∧ s.ip < s.psize) ∧
    s.status ≠ 0b11

/-- R175: exactly the configurations with `TAPE_SIZE = 0` are refused, before any step; nothing else is ever refused. -/
def Obligations.OnlyZeroTapeSizeIsRefused : Prop :=
  ∀ s : State,
    (s.cfg.tapeSize = 0 → step s = .refused .tapeSizeZero) ∧
    (0 < s.cfg.tapeSize → ∀ r, step s ≠ .refused r)

/-- R5, R6, R7, R29: the configuration never changes. -/
def Obligations.ConfigurationIsFixed : Prop :=
  ∀ s t : State, step s = .next t → t.cfg = s.cfg

/-! ### Invariants -/

/-- The state after reset is consistent, at every configuration an engine can have, and has no error to explain.
Its host fields are the model's choice (log 3), and no clause rests on their values but `busy` and `port` being idle. -/
def Obligations.ResetIsConsistent : Prop :=
  State.reset.Inv ∧ State.reset.ErrorCause ∧
  ∀ c : Config, 0 < c.tapeSize → (State.resetWith c).Inv ∧ (State.resetWith c).ErrorCause

/-- R90: every machine step keeps the state consistent: the pointers stay in range, both stores stay canonical and hold
only addresses that exist, and a step waits exactly while an OUT or IN transfer is in progress. -/
def Obligations.StepKeepsConsistency : Prop :=
  ∀ s t : State, s.Inv → step s = .next t → t.Inv

/-- R172: every machine step keeps it true that a set latch is explained by an unmatched bracket at `ip`. -/
def Obligations.StepKeepsErrorCause : Prop :=
  ∀ s t : State, s.ErrorCause → step s = .next t → t.ErrorCause

/-- R42, R43, R213: from a consistent state no number of machine steps ends in a fault or a refusal. -/
def Obligations.ConsistentRunsNeverStop : Prop :=
  ∀ (k : Nat) (s : State), s.Inv → SafeRun k s

/-! ### LOAD (`70_reset_and_hazards.md`, `60_exceptions.md`) -/

/-- R204, R205: LOAD of a program that fits, taken between steps, replaces the program and `PSIZE`, sets `ip`, `dp` and
`err` to 0, keeps the tape and answers LoadOK. -/
def Obligations.LoadReplacesProgram : Prop :=
  ∀ (s : State) (q : List Byte) (rest : List Command),
    0 < s.cfg.tapeSize → s.moves = [] → s.busy = none → s.pending = .load q :: rest →
    q.length ≤ s.cfg.progCapacity →
    ∃ t, step s = .next t ∧
      t = { s with prog := t.prog, psize := q.length, ip := 0, dp := 0, err := false, pending := rest,
                   responses := s.responses ++ [.loadOK] } ∧
      (∀ (a : Nat) (h : a < q.length), t.fetch a = q[a]) ∧ t.prog.below q.length

/-- R176: LOAD of a program longer than `PROG_CAPACITY` answers LoadFailure and changes no state. -/
def Obligations.TooLongLoadChangesNothing : Prop :=
  ∀ (s : State) (q : List Byte) (rest : List Command),
    0 < s.cfg.tapeSize → s.moves = [] → s.busy = none → s.pending = .load q :: rest →
    s.cfg.progCapacity < q.length →
    step s = .next { s with pending := rest, responses := s.responses ++ [.loadFailure] }

/-- R23, R46: no instruction writes the program store, and a machine step changes it only by RESET, or by taking a LOAD: an
engine move (the host has no further move or pauses, log 4) between steps, with the LOAD the oldest waiting command. -/
def Obligations.OnlyLoadAndResetChangeProgram : Prop :=
  (∀ (i : Instr) (s t : State), exec i s = .next t → t.prog = s.prog ∧ t.psize = s.psize) ∧
  (∀ s t : State, step s = .next t → t.prog ≠ s.prog ∨ t.psize ≠ s.psize →
    s.moves.head? = some .reset ∨
    ((s.moves = [] ∨ s.moves.head? = some .pause) ∧ s.busy = none ∧ ∃ q, s.pending.head? = some (.load q)))

/-! ### The units and the tape instructions (`41_tape.md`) -/

/-- R100: the pointer unit maps pointers in range to pointers in range, and is decrement and increment modulo
`TAPE_SIZE`. -/
def Obligations.PointerUnitIsCircular : Prop :=
  ∀ n p : Nat, p < n →
    ptrDec n p < n ∧ ptrInc n p < n ∧
    ptrDec n p = (p + n - 1) % n ∧ ptrInc n p = (p + 1) % n ∧
    (p = 0 → ptrDec n p = n - 1) ∧ (p = n - 1 → ptrInc n p = 0) ∧
    (n = 1 → ptrDec n p = 0 ∧ ptrInc n p = 0)

/-- R101: the ALU adds and subtracts 1 modulo 256, unsigned. -/
def Obligations.AluIsModulo256 : Prop :=
  ∀ v : Byte,
    (aluInc v).toNat = (v.toNat + 1) % 256 ∧ ((aluDec v).toNat : Int) = ((v.toNat : Int) - 1) % 256 ∧
    (aluDec v).toNat = (v.toNat + 255) % 256 ∧ aluInc 0xFF = 0x00 ∧ aluDec 0x00 = 0xFF

/-- R106: `TAPE_SIZE` moves close into a cycle and no smaller positive number does, 256 increments or decrements give the
cell back, and the two directions undo each other. -/
def Obligations.UnitsAreCyclic : Prop :=
  (∀ n p : Nat, p < n → (ptrDec n)^[n] p = p ∧ (ptrInc n)^[n] p = p) ∧
  (∀ n p k : Nat, p < n → 0 < k → k < n → (ptrDec n)^[k] p ≠ p ∧ (ptrInc n)^[k] p ≠ p) ∧
  (∀ n p : Nat, p < n → ptrDec n (ptrInc n p) = p ∧ ptrInc n (ptrDec n p) = p) ∧
  (∀ v : Byte, aluInc^[256] v = v ∧ aluDec^[256] v = v ∧ aluDec (aluInc v) = v ∧ aluInc (aluDec v) = v)

/-- R102: LEFT moves `dp` one cell left, wrapping, advances `ip` and changes nothing else. -/
def Obligations.LeftMovesPointer : Prop :=
  encode .left = 0x3C ∧
  ∀ s : State, s.dp < s.cfg.tapeSize →
    exec .left s =
      .next { s with dp := (s.dp + s.cfg.tapeSize - 1) % s.cfg.tapeSize, ip := s.ip + 1 }

/-- R103: RIGHT moves `dp` one cell right, wrapping, advances `ip` and changes nothing else. -/
def Obligations.RightMovesPointer : Prop :=
  encode .right = 0x3E ∧
  ∀ s : State, s.dp < s.cfg.tapeSize →
    exec .right s = .next { s with dp := (s.dp + 1) % s.cfg.tapeSize, ip := s.ip + 1 }

/-- R104: INC adds 1 to the current cell modulo 256, advances `ip`, and leaves every other cell and all other state as it
was. -/
def Obligations.IncAddsOneToCell : Prop :=
  encode .inc = 0x2B ∧
  ∀ s : State, s.dp < s.cfg.tapeSize → s.tape.wf →
    ∃ t, exec .inc s = .next t ∧
      t = { s with tape := t.tape, ip := s.ip + 1 } ∧
      (t.tape.read s.dp).toNat = ((s.tape.read s.dp).toNat + 1) % 256 ∧
      ∀ a, a ≠ s.dp → t.tape.read a = s.tape.read a

/-- R105: DEC subtracts 1 from the current cell modulo 256, advances `ip`, and leaves every other cell and all other state
as it was. -/
def Obligations.DecSubtractsOneFromCell : Prop :=
  encode .dec = 0x2D ∧
  ∀ s : State, s.dp < s.cfg.tapeSize → s.tape.wf →
    ∃ t, exec .dec s = .next t ∧
      t = { s with tape := t.tape, ip := s.ip + 1 } ∧
      ((t.tape.read s.dp).toNat : Int) = (((s.tape.read s.dp).toNat : Int) - 1) % 256 ∧
      ∀ a, a ≠ s.dp → t.tape.read a = s.tape.read a

/-- R22, R21, R41: among the instructions only LEFT and RIGHT change `dp`, and only INC, DEC and IN change the tape, at the
current cell alone. -/
def Obligations.TapeAndPointerHaveFewWriters : Prop :=
  ∀ (i : Instr) (s t : State), exec i s = .next t →
    (t.dp ≠ s.dp → i = .left ∨ i = .right) ∧
    (t.tape ≠ s.tape → i = .inc ∨ i = .dec ∨ i = .inp) ∧
    ∀ a, a ≠ s.dp → t.tape.read a = s.tape.read a

/-- The model's choice (log 2): where `dp` is not below `TAPE_SIZE`, which no run reaches, an instruction that touches the
current cell stops with a fault of its own name, and so does a JNZ that scans from above `PSIZE`. -/
def Obligations.AbsentAddressStops : Prop :=
  (∀ s : State, s.cfg.tapeSize ≤ s.dp →
    exec .inc s = .fault .tapeAddress ∧ exec .dec s = .fault .tapeAddress ∧
    exec .out s = .fault .tapeAddress ∧ exec .jz s = .fault .tapeAddress ∧
    exec .jnz s = .fault .tapeAddress ∧ (s.input ≠ [] → exec .inp s = .fault .tapeAddress)) ∧
  (∀ s : State, s.dp < s.cfg.tapeSize → s.cell ≠ 0 → s.psize < s.ip →
    exec .jnz s = .fault .programAddress)

/-! ### NOP (`40_sequencer.md`) -/

/-- R87: every byte that is no opcode decodes to a NOP, and a NOP advances `ip` and changes nothing else. -/
def Obligations.NopOnlyAdvances : Prop :=
  (∀ b : Byte, decodeByte b = .nop b ↔ b ∉ [0x2B, 0x2C, 0x2D, 0x2E, 0x3C, 0x3E, 0x5B, 0x5D]) ∧
  ∀ (b : Byte) (s : State), exec (.nop b) s = .next { s with ip := s.ip + 1 }

/-! ### I/O (`42_io.md`) -/

/-- R122: when the host takes bytes, OUT hands it the current cell, advances `ip`, and changes nothing else. -/
def Obligations.OutHandsCellToHost : Prop :=
  encode .out = 0x2E ∧
  ∀ s : State, s.dp < s.cfg.tapeSize → s.taking = true →
    exec .out s =
      .next { s with port := .idle, output := s.output ++ [s.tape.read s.dp], ip := s.ip + 1 }

/-- R121: when the host does not take bytes, OUT waits with the current cell on offer and has changed nothing else. That a
wait is a next state is the model's reading (log 7). -/
def Obligations.OutWaitsUntilTaken : Prop :=
  ∀ s : State, s.dp < s.cfg.tapeSize → s.taking = false →
    exec .out s = .next { s with port := .offering (s.tape.read s.dp) }

/-- R126: IN takes the oldest item on offer and stores it in the current cell, `EOF_BYTE` at end-of-input, advances `ip`,
and leaves every other cell and all other state as it was. -/
def Obligations.InStoresItemInCell : Prop :=
  encode .inp = 0x2C ∧
  ∀ (s : State) (x : InItem) (rest : List InItem),
    s.dp < s.cfg.tapeSize → s.tape.wf → s.input = x :: rest →
    ∃ t, exec .inp s = .next t ∧
      t = { s with tape := t.tape, port := .idle, input := rest, ip := s.ip + 1 } ∧
      (∀ v, x = .byte v → t.tape.read s.dp = v) ∧
      (x = .eof → t.tape.read s.dp = s.cfg.eofByte) ∧
      ∀ a, a ≠ s.dp → t.tape.read a = s.tape.read a

/-- R125: with no item on offer IN waits and has changed nothing else. That a wait is a next state is the model's reading
(log 7). -/
def Obligations.InWaitsForItem : Prop :=
  ∀ s : State, s.input = [] → exec .inp s = .next { s with port := .awaiting }

/-- R126, corner case: an input byte equal to `EOF_BYTE` and an end-of-input leave the same state. -/
def Obligations.EofAndItsByteLookAlike : Prop :=
  ∀ (s : State) (rest : List InItem),
    exec .inp { s with input := .byte s.cfg.eofByte :: rest } = exec .inp { s with input := .eof :: rest }

/-- R92, R121, R125: a step that waits at a port the host never serves waits forever: no number of machine steps changes
anything. That a wait is a next state is the model's reading (log 7). -/
def Obligations.UnservedWaitLastsForever : Prop :=
  ∀ (k : Nat) (s : State), s.Inv → s.moves = [] →
    (s.port = .awaiting ∧ s.input = []) ∨ ((∃ v, s.port = .offering v) ∧ s.taking = false) →
    Sys2Proof.core.run k s = .next s

/-- R121, R125: once the host serves the port, the waiting step completes at the next machine step, with the byte that was
on offer, or with the oldest item. Waiting as a next state and how the host serves are the model's reading (log 7, log 12). -/
def Obligations.ServedWaitCompletes : Prop :=
  ∀ s : State, s.Inv → s.moves = [] →
    (∀ v, s.port = .offering v → s.taking = true →
      ∃ t, step s = .next t ∧ t.port = .idle ∧ t.busy = none ∧ t.ip = s.ip + 1 ∧
        t.output = s.output ++ [v] ∧ t.input = s.input ∧ t.tape = s.tape ∧ t.dp = s.dp) ∧
    (∀ x rest, s.port = .awaiting → s.input = x :: rest →
      ∃ t, step s = .next t ∧ t.port = .idle ∧ t.busy = none ∧ t.ip = s.ip + 1 ∧
        t.input = rest ∧ t.output = s.output ∧ t.cell = x.value s.cfg.eofByte ∧ t.dp = s.dp)

/-- R51, R120: a machine step hands over at most one byte, the current cell of an OUT, after all earlier ones, and takes at
most one item, the oldest, for an IN; otherwise only the host adds items, at the end (log 12). -/
def Obligations.PortsKeepProgramOrder : Prop :=
  ∀ s t : State, step s = .next t →
    (t.output = s.output ∨
      (t.output = s.output ++ [s.cell] ∧ decodeByte (s.fetch s.ip) = .out ∧ t.ip = s.ip + 1)) ∧
    (t.input = s.input ∨
      (∃ x, s.input = x :: t.input ∧ decodeByte (s.fetch s.ip) = .inp ∧ t.ip = s.ip + 1) ∨
      (∃ x, t.input = s.input ++ [x] ∧ s.moves.head? = some (.offer x)))

/-! ### Loops (`43_loop.md`) -/

/-- R143, R145, R171: JZ falls through on a nonzero cell; on a zero cell it goes to one past the match, or sets the latch
and leaves `ip` at itself. Nothing else changes. -/
def Obligations.JzBranchesOnZero : Prop :=
  encode .jz = 0x5B ∧
  ∀ s : State, s.dp < s.cfg.tapeSize →
    (s.tape.read s.dp ≠ 0 → exec .jz s = .next { s with ip := s.ip + 1 }) ∧
    (∀ m, s.tape.read s.dp = 0 → s.scanForward s.ip = some m → exec .jz s = .next { s with ip := m + 1 }) ∧
    (s.tape.read s.dp = 0 → s.scanForward s.ip = none → exec .jz s = .next { s with err := true })

/-- R144, R145, R171: JNZ falls through on a zero cell; on a nonzero cell it goes to one past the match, or sets the latch
and leaves `ip` at itself. Nothing else changes. -/
def Obligations.JnzBranchesOnNonzero : Prop :=
  encode .jnz = 0x5D ∧
  ∀ s : State, s.dp < s.cfg.tapeSize → s.ip ≤ s.psize →
    (s.tape.read s.dp = 0 → exec .jnz s = .next { s with ip := s.ip + 1 }) ∧
    (∀ m, s.tape.read s.dp ≠ 0 → s.scanBackward s.ip = some m → exec .jnz s = .next { s with ip := m + 1 }) ∧
    (s.tape.read s.dp ≠ 0 → s.scanBackward s.ip = none → exec .jnz s = .next { s with err := true })

/-- R141, R151: the forward scan finds the first address after the bracket, and before the end of the program, at which one
more bracket has closed than opened; it fails exactly when there is none. -/
def Obligations.ForwardScanFindsFirstClosing : Prop :=
  ∀ (s : State) (a m : Nat),
    s.scanForward a = some m ↔
      a < m ∧ m < s.psize ∧ s.nesting (m + 1) = s.nesting (a + 1) - 1 ∧
      ∀ j, a < j → j < m → s.nesting (a + 1) ≤ s.nesting (j + 1)

/-- R142, R149, R151: the backward scan finds the last address before the bracket, down to 0 and never below, from which one
more bracket has opened than closed; it fails exactly when there is none. -/
def Obligations.BackwardScanFindsLastOpening : Prop :=
  ∀ (s : State) (a m : Nat),
    s.scanBackward a = some m ↔
      m < a ∧ s.nesting m = s.nesting a - 1 ∧ ∀ j, m < j → j < a → s.nesting a ≤ s.nesting j

/-- R141, R142: the two scans are inverse to each other on matched brackets, in any program, balanced or not. -/
def Obligations.ScansAreInverse : Prop :=
  ∀ (s : State) (a m : Nat), a < s.psize → m < s.psize →
    (s.fetch a = opJZ → s.scanForward a = some m → s.fetch m = opJNZ ∧ s.scanBackward m = some a) ∧
    (s.fetch m = opJNZ → s.scanBackward m = some a → s.fetch a = opJZ ∧ s.scanForward a = some m)

/-- R152: in a balanced program every bracket has its partner, found by the scan from either side, and no machine step sets
the latch. -/
def Obligations.BalancedProgramNeverRaises : Prop :=
  ∀ s : State, s.Balanced →
    (∀ a, a < s.psize → s.fetch a = opJZ →
      ∃ m, s.scanForward a = some m ∧ s.fetch m = opJNZ ∧ s.scanBackward m = some a) ∧
    (∀ m, m < s.psize → s.fetch m = opJNZ →
      ∃ a, s.scanBackward m = some a ∧ s.fetch a = opJZ ∧ s.scanForward a = some m) ∧
    (∀ t, s.err = false → step s = .next t → t.err = false)

/-! ### Errors (`60_exceptions.md`) -/

/-- R148, R170, R171, R173: an instruction sets the latch exactly when it is a JZ on a zero cell or a JNZ on a nonzero cell
whose scan finds no match, and then the latch is all that changes. -/
def Obligations.OnlyUnmatchedBracketsRaise : Prop :=
  ∀ (i : Instr) (s t : State), exec i s = .next t → s.err = false →
    (t.err = true ↔
      (i = .jz ∧ s.cell = 0 ∧ s.scanForward s.ip = none) ∨
      (i = .jnz ∧ s.cell ≠ 0 ∧ s.scanBackward s.ip = none)) ∧
    (t.err = true → t = { s with err := true })

/-- R26, R174: the latch, once set, stays set until a machine step that is a RESET, or that takes a LOAD that fits: an engine
move (the host has no further move or pauses, log 4) between steps, with the LOAD the oldest waiting command. -/
def Obligations.LatchHoldsUntilResetOrLoad : Prop :=
  ∀ s t : State, s.err = true → step s = .next t → t.err = false →
    s.moves.head? = some .reset ∨
    ((s.moves = [] ∨ s.moves.head? = some .pause) ∧ s.busy = none ∧
      ∃ q, s.pending.head? = some (.load q) ∧ q.length ≤ s.cfg.progCapacity)

/-! ### The step and the Driver (`40_sequencer.md`) -/

/-- R80, R83, R84: when the latch is clear and `ip` is inside the program, a machine step of the engine (the host pauses or
has no further move, log 4) in which a RUN goes on, a STEP is taken, or a waiting step is resumed is `exec` of the
instruction decoded at `ip`, followed by the end of the step (`StepEndsWithItsResult`). -/
def Obligations.StepRunsDecodedInstruction : Prop :=
  ∀ (s : State) (ms : List HostMove), 0 < s.cfg.tapeSize →
    (s.moves = [] ∧ ms = []) ∨ s.moves = .pause :: ms →
    s.err = false → s.ip < s.psize →
    (s.busy = none → s.pending = [] → 0 < s.runs →
      step s = settleResult .run (exec (decodeByte (s.fetch s.ip)) { s with moves := ms })) ∧
    (∀ rest, s.busy = none → s.pending = .step :: rest →
      step s = settleResult .step (exec (decodeByte (s.fetch s.ip)) { s with moves := ms, pending := rest })) ∧
    (∀ who, s.busy = some who →
      step s = settleResult who (exec (decodeByte (s.fetch s.ip)) { s with moves := ms }))

/-- R86, R88, R171 (and log 5, log 7, log 8: counted RUNs, waits, recorded answers): after the instruction, a step whose transfer is in progress stays in progress; one
that raised ends with Error; any other ends with Continue. STEP hands its result to the host, RUN only a final one. A fault
or refusal passes through. -/
def Obligations.StepEndsWithItsResult : Prop :=
  (∀ (t : State) (who : Issuer), t.port ≠ .idle → settleResult who (.next t) = .next { t with busy := some who }) ∧
  (∀ t : State, t.port = .idle → t.err = true →
    settleResult .step (.next t) = .next { t with busy := none, responses := t.responses ++ [.step .error] } ∧
    settleResult .run (.next t) =
      .next { t with busy := none, runs := t.runs - 1, responses := t.responses ++ [.run .error] }) ∧
  (∀ t : State, t.port = .idle → t.err = false →
    settleResult .step (.next t) = .next { t with busy := none, responses := t.responses ++ [.step .cont] } ∧
    settleResult .run (.next t) = .next { t with busy := none }) ∧
  (∀ (who : Issuer) (f : Fault), settleResult who (.fault f) = .fault f) ∧
  (∀ (who : Issuer) (r : Refusal), settleResult who (.refused r) = .refused r)

/-- R81, R181: with the latch set, a step answers Error and writes no state: no fetch, no tape, no pointer, no port. Said of
the Stepper and of the machine step: a RUN that goes on, a STEP that is taken, a step in progress, and a RUN command given in
this status, which is answered by the machine step after the one that takes it. That RUNs are counted and answers recorded is
the model's choice (log 5, log 8). -/
def Obligations.LatchedStepAnswersError : Prop :=
  (∀ s : State, s.err = true →
    stepper .step s = .next { s with busy := none, responses := s.responses ++ [.step .error] } ∧
    stepper .run s =
      .next { s with busy := none, runs := s.runs - 1, responses := s.responses ++ [.run .error] }) ∧
  (∀ (s : State) (ms : List HostMove), 0 < s.cfg.tapeSize →
    (s.moves = [] ∧ ms = []) ∨ s.moves = .pause :: ms → s.err = true →
    (s.busy = none → s.pending = [] → 0 < s.runs →
      step s = .next { s with moves := ms, runs := s.runs - 1, responses := s.responses ++ [.run .error] }) ∧
    (∀ rest, s.busy = none → s.pending = .step :: rest →
      step s = .next { s with moves := ms, pending := rest, responses := s.responses ++ [.step .error] }) ∧
    (s.busy = some .step →
      step s = .next { s with moves := ms, busy := none, responses := s.responses ++ [.step .error] }) ∧
    (s.busy = some .run →
      step s =
        .next { s with moves := ms, busy := none, runs := s.runs - 1, responses := s.responses ++ [.run .error] })) ∧
  (∀ s : State, 0 < s.cfg.tapeSize → s.moves = [] → s.busy = none → s.pending = [.run] → s.err = true →
    ∃ u, step s = .next u ∧ step u = .next { s with pending := [], responses := s.responses ++ [.run .error] })

/-- R82, R181: with the latch clear and `ip` at or past `PSIZE`, a step answers Halt and writes no state. Said of the Stepper
and of the machine step: a RUN that goes on, a STEP that is taken, a step in progress, and a RUN command given in this status,
which is answered by the machine step after the one that takes it. That RUNs are counted and answers recorded is the model's
choice (log 5, log 8). -/
def Obligations.ExhaustedStepAnswersHalt : Prop :=
  (∀ s : State, s.err = false → s.psize ≤ s.ip →
    stepper .step s = .next { s with busy := none, responses := s.responses ++ [.step .halt] } ∧
    stepper .run s =
      .next { s with busy := none, runs := s.runs - 1, responses := s.responses ++ [.run .halt] }) ∧
  (∀ (s : State) (ms : List HostMove), 0 < s.cfg.tapeSize →
    (s.moves = [] ∧ ms = []) ∨ s.moves = .pause :: ms → s.err = false → s.psize ≤ s.ip →
    (s.busy = none → s.pending = [] → 0 < s.runs →
      step s = .next { s with moves := ms, runs := s.runs - 1, responses := s.responses ++ [.run .halt] }) ∧
    (∀ rest, s.busy = none → s.pending = .step :: rest →
      step s = .next { s with moves := ms, pending := rest, responses := s.responses ++ [.step .halt] }) ∧
    (s.busy = some .step →
      step s = .next { s with moves := ms, busy := none, responses := s.responses ++ [.step .halt] }) ∧
    (s.busy = some .run →
      step s =
        .next { s with moves := ms, busy := none, runs := s.runs - 1, responses := s.responses ++ [.run .halt] })) ∧
  (∀ s : State, 0 < s.cfg.tapeSize → s.moves = [] → s.busy = none → s.pending = [.run] →
    s.err = false → s.psize ≤ s.ip →
    ∃ u, step s = .next u ∧ step u = .next { s with pending := [], responses := s.responses ++ [.run .halt] })

/-- R86 (C1, D23): a step that executes an instruction, does not wait and does not raise returns Continue, also when it
leaves `ip = PSIZE`; STATUS then reads HALTED, and the next step returns Halt and changes nothing. Said of the Stepper, of
two STEPs taken by the machine one after the other, and of a RUN, which goes on and then ends with Halt (log 5, log 8). -/
def Obligations.LastInstructionContinues : Prop :=
  (∀ s u : State, s.err = false → s.ip < s.psize →
    exec (decodeByte (s.fetch s.ip)) s = .next u → u.port = .idle → u.err = false →
    ∃ t, stepper .step s = .next t ∧ t.arch = u.arch ∧ t.responses = s.responses ++ [.step .cont] ∧
      (t.ip = t.psize → t.status = 0b01 ∧
        ∃ w, stepper .step t = .next w ∧ w.arch = t.arch ∧ w.responses = t.responses ++ [.step .halt])) ∧
  (∀ (s u : State) (rest : List Command), 0 < s.cfg.tapeSize → s.moves = [] → s.busy = none →
    s.pending = .step :: .step :: rest → s.err = false → s.ip < s.psize →
    exec (decodeByte (s.fetch s.ip)) { s with pending := .step :: rest } = .next u → u.port = .idle → u.err = false →
    ∃ t, step s = .next t ∧ t.arch = u.arch ∧ t.responses = s.responses ++ [.step .cont] ∧
      (t.ip = t.psize → t.status = 0b01 ∧
        ∃ w, step t = .next w ∧ w.arch = t.arch ∧ w.responses = t.responses ++ [.step .halt])) ∧
  (∀ s u : State, 0 < s.cfg.tapeSize → s.moves = [] → s.busy = none → s.pending = [] → 0 < s.runs →
    s.err = false → s.ip < s.psize →
    exec (decodeByte (s.fetch s.ip)) s = .next u → u.port = .idle → u.err = false →
    ∃ t, step s = .next t ∧ t.arch = u.arch ∧ t.responses = s.responses ∧ t.runs = s.runs ∧
      (t.ip = t.psize → t.status = 0b01 ∧
        ∃ w, step t = .next w ∧ w.arch = t.arch ∧ w.responses = t.responses ++ [.run .halt]))

/-- R91: in a final state (STATUS HALTED or ERROR) steps change neither the engine nor the streams, and the next step gives
the same result again. The second clause says the first part of every engine move (the host has no further move or pauses,
log 4) that takes no LOAD; which answers it gives, `LatchedStepAnswersError` and `ExhaustedStepAnswersHalt` say. -/
def Obligations.FinalStatesAreStable : Prop :=
  (∀ (s t : State) (who : Issuer), s.status ≠ 0b00 → stepper who s = .next t →
    s.SameEngine t ∧ t.status = s.status ∧
    (∀ r, t.responses = s.responses ++ [.step r] →
      ∃ u, stepper .step t = .next u ∧ u.responses = t.responses ++ [.step r])) ∧
  (∀ s t : State, s.status ≠ 0b00 → s.moves = [] ∨ s.moves.head? = some .pause →
    (s.busy = none → ∀ q, s.pending.head? ≠ some (.load q)) → step s = .next t →
    s.SameEngine t ∧ t.status = s.status)

/-- R88, R89: from a consistent state a RUN answers only Halt, with the latch clear and `ip = PSIZE`, or Error, with the latch
set; then one RUN fewer is in progress and STATUS tells the two ends apart. That RUNs are counted and answers recorded is the
model's choice (log 5, log 8). -/
def Obligations.RunEndsInHaltOrError : Prop :=
  ∀ (s t : State) (r : StepResult), s.Inv → step s = .next t → t.responses = s.responses ++ [.run r] →
    ((r = .halt ∧ t.err = false ∧ t.ip = t.psize ∧ t.status = 0b01) ∨
     (r = .error ∧ t.err = true ∧ t.ip = s.ip ∧ t.status = 0b10)) ∧
    t.runs + 1 = s.runs

/-- R88: a machine step of a RUN has the effect on the engine and the streams that a STEP has in the same state; the Driver
adds no instruction logic. Queue and count are the model's form (log 3, log 5). -/
def Obligations.RunRepeatsStep : Prop :=
  ∀ s t : State, s.moves = [] → s.busy = none →
    step { s with pending := [.step], runs := 0 } = .next t →
    ∃ u, step { s with pending := [], runs := 1 } = .next u ∧ s.cfg = u.cfg ∧
      u.arch = t.arch ∧ u.port = t.port ∧ u.input = t.input ∧ u.output = t.output

/-- R88 and the model's choice (log 5): taking a RUN command only counts it; its steps follow. -/
def Obligations.RunCommandStartsDriver : Prop :=
  ∀ (s : State) (rest : List Command),
    0 < s.cfg.tapeSize → s.moves = [] → s.busy = none → s.pending = .run :: rest →
    step s = .next { s with pending := rest, runs := s.runs + 1 }

/-! ### The host interface (`60_exceptions.md`) -/

/-- R212: while a step waits, no command is taken; a command that arrives joins the others at the end and nothing else
changes. The queue is the model's form (log 3, log 5). -/
def Obligations.CommandsWaitDuringStep : Prop :=
  (∀ (s t : State) (who : Issuer), s.busy = some who →
    s.moves = [] ∨ (∃ rest, s.moves = .pause :: rest) → step s = .next t → t.pending = s.pending) ∧
  (∀ (s : State) (c : Command) (rest : List HostMove), 0 < s.cfg.tapeSize → s.moves = .command c :: rest →
    step s = .next { s with moves := rest, pending := s.pending ++ [c] })

/-- R181, R121, R125: no host move but RESET changes the architectural state directly, or the configuration, the transfer, the
steps and RUNs in progress, or what the host has received. A machine step whose next move is an offer adds that item at the end
of the input and changes nothing else; one that begins or stops taking output changes only that; one in which a command
arrives adds it at the end of the waiting commands. The host's moves as data are the model's form (log 3, log 4, log 12). -/
def Obligations.HostWritesEngineOnlyByReset : Prop :=
  (∀ (m : HostMove) (s : State), m ≠ .reset →
    (m.apply s).arch = s.arch ∧ (m.apply s).cfg = s.cfg ∧ (m.apply s).runs = s.runs ∧
    (m.apply s).port = s.port ∧ (m.apply s).busy = s.busy ∧
    (m.apply s).output = s.output ∧ (m.apply s).responses = s.responses) ∧
  (∀ (s : State) (x : InItem) (rest : List HostMove), 0 < s.cfg.tapeSize → s.moves = .offer x :: rest →
    step s = .next { s with moves := rest, input := s.input ++ [x] }) ∧
  (∀ (s : State) (b : Bool) (rest : List HostMove), 0 < s.cfg.tapeSize → s.moves = .setTaking b :: rest →
    step s = .next { s with moves := rest, taking := b }) ∧
  (∀ (s : State) (c : Command) (rest : List HostMove), 0 < s.cfg.tapeSize → s.moves = .command c :: rest →
    step s = .next { s with moves := rest, pending := s.pending ++ [c] })

/-- R29: observe, taken between steps, answers with the value of every host-visible item and changes nothing else. -/
def Obligations.ObserveAnswersEveryItem : Prop :=
  ∀ (s : State) (rest : List Command),
    0 < s.cfg.tapeSize → s.moves = [] → s.busy = none → s.pending = .observe :: rest →
    ∃ o : Observation,
      step s = .next { s with pending := rest, responses := s.responses ++ [.observed o] } ∧
      o.status = s.status ∧ o.ip = s.ip ∧ o.dp = s.dp ∧ o.psize = s.psize ∧
      o.tapeSize = s.cfg.tapeSize ∧ o.progCapacity = s.cfg.progCapacity ∧ o.eofByte = s.cfg.eofByte ∧
      o.tape.length = s.cfg.tapeSize ∧ (∀ a, a < s.cfg.tapeSize → o.tape[a]? = some (s.tape.read a)) ∧
      o.prog.length = s.psize ∧ (∀ a, a < s.psize → o.prog[a]? = some (s.prog.read a))

/-- R185: with no command, no RUN and no host move, nothing changes for any number of machine steps. -/
def Obligations.IdleEngineIsQuiescent : Prop :=
  ∀ (k : Nat) (s : State), 0 < s.cfg.tapeSize → s.moves = [] → s.busy = none → s.pending = [] → s.runs = 0 →
    Sys2Proof.core.run k s = .next s

/-- R208: what the host has already received does not influence a step: from two states that differ only in the bytes and
answers handed over earlier, the same step is taken. -/
def Obligations.PastOutputDoesNotMatter : Prop :=
  ∀ (s t : State) (o : List Byte) (r : List Response), step s = .next t →
    step { s with output := o ++ s.output, responses := r ++ s.responses } =
      .next { t with output := o ++ t.output, responses := r ++ t.responses }

/-- The model's loading aid (log 10): from a state with a legal configuration and a canonical program store, the machine step
after `withFetchWord` is `exec` of the instruction the table word decodes to. -/
def Obligations.FetchWordRunsNext : Prop :=
  ∀ (s : State) (nbits w : Nat) (i : Instr), 0 < s.cfg.tapeSize → s.prog.wf →
    decodeTableWord nbits w = some i →
    step (s.withFetchWord nbits w) = settleResult .run (exec i (s.withFetchWord nbits w))
end

