-- ==== Sys2Proof/Laws/Memory.lean ====
section
/-! SUPPORT. The laws of the byte stores: read after write, and that every operation keeps the canonical form. -/

namespace Sys2Proof.Machine

/-! ### Reading -/

@[simp] theorem Memory.read_nil (a : Nat) : Memory.read [] a = 0 := rfl

theorem Memory.read_cons (b : Nat) (w : Byte) (m : Memory) (a : Nat) :
    Memory.read ((b, w) :: m) a = if b = a then w else Memory.read m a := rfl

theorem Memory.read_unlisted {m : Memory} {a : Nat} (h : ∀ c ∈ m, c.1 ≠ a) : m.read a = 0 := by
  induction m with
  | nil => rfl
  | cons c m ih =>
    obtain ⟨b, w⟩ := c
    have hb : b ≠ a := h (b, w) (by simp)
    rw [Memory.read_cons, if_neg hb]
    exact ih fun c hc => h c (by simp [hc])

/-! ### The canonical form, one cell at a time -/

theorem Memory.wf_nil : Memory.wf [] := by simp [Memory.wf]

theorem Memory.wf_cons {b : Nat} {w : Byte} {m : Memory} :
    Memory.wf ((b, w) :: m) ↔ (∀ c ∈ m, b < c.1) ∧ w ≠ 0 ∧ Memory.wf m := by
  simp only [Memory.wf, unlistedByte, List.pairwise_cons, List.mem_cons, forall_eq_or_imp]
  tauto

/-! ### Writing -/

theorem Memory.mem_write {m : Memory} {a : Nat} {v : Byte} {c : Host.Cell} (h : c ∈ m.write a v) :
    c = (a, v) ∨ c ∈ m := by
  induction m with
  | nil =>
    simp only [Memory.write] at h
    split at h <;> simp_all
  | cons d m ih =>
    obtain ⟨b, w⟩ := d
    simp only [Memory.write] at h
    split at h
    · split at h <;> simp_all
    · split at h
      · split at h
        · exact .inr (by simp [h])
        · rcases List.mem_cons.mp h with h | h
          · exact .inl h
          · exact .inr (by simp [h])
      · rcases List.mem_cons.mp h with h | h
        · exact .inr (by simp [h])
        · rcases ih h with h | h
          · exact .inl h
          · exact .inr (by simp [h])

/-- A write keeps the canonical form. -/
theorem Memory.write_wf {m : Memory} (h : m.wf) (a : Nat) (v : Byte) : (m.write a v).wf := by
  induction m with
  | nil =>
    simp only [Memory.write]
    split
    · exact Memory.wf_nil
    · rename_i hv
      exact Memory.wf_cons.mpr ⟨by simp, hv, Memory.wf_nil⟩
  | cons d m ih =>
    obtain ⟨b, w⟩ := d
    obtain ⟨hlt, hw, hm⟩ := Memory.wf_cons.mp h
    simp only [Memory.write]
    split
    · rename_i hab
      split
      · exact h
      · rename_i hv
        refine Memory.wf_cons.mpr ⟨?_, hv, h⟩
        intro c hc
        rcases List.mem_cons.mp hc with rfl | hc
        · exact hab
        · exact hab.trans (hlt c hc)
    · split
      · rename_i hab
        subst hab
        split
        · exact hm
        · rename_i hv
          exact Memory.wf_cons.mpr ⟨hlt, hv, hm⟩
      · rename_i hna hne
        refine Memory.wf_cons.mpr ⟨?_, hw, ih hm⟩
        intro c hc
        rcases Memory.mem_write hc with rfl | hc
        · show b < a
          omega
        · exact hlt c hc

/-- A write below `n` lists no address at or above `n`. -/
theorem Memory.write_below {m : Memory} {n a : Nat} (h : m.below n) (ha : a < n) (v : Byte) :
    (m.write a v).below n := by
  intro c hc
  rcases Memory.mem_write hc with rfl | hc
  · exact ha
  · exact h c hc

/-- A write leaves every other address alone. -/
theorem Memory.read_write_other (m : Memory) {a a' : Nat} (h : a' ≠ a) (v : Byte) :
    (m.write a v).read a' = m.read a' := by
  induction m with
  | nil =>
    simp only [Memory.write]
    split
    · rfl
    · rw [Memory.read_cons, if_neg (Ne.symm h)]
  | cons d m ih =>
    obtain ⟨b, w⟩ := d
    simp only [Memory.write]
    split
    · split
      · rfl
      · rw [Memory.read_cons, if_neg (Ne.symm h)]
    · split
      · rename_i hab
        subst hab
        split
        · rw [Memory.read_cons, if_neg (Ne.symm h)]
        · simp [Memory.read_cons, Ne.symm h]
      · simp [Memory.read_cons, ih]

/-- A read after a write to the same address gives the value written. -/
theorem Memory.read_write_same {m : Memory} (h : m.wf) (a : Nat) (v : Byte) : (m.write a v).read a = v := by
  induction m with
  | nil =>
    simp only [Memory.write]
    split
    · rename_i hv
      rw [hv]; rfl
    · simp [Memory.read_cons]
  | cons d m ih =>
    obtain ⟨b, w⟩ := d
    obtain ⟨hlt, hw, hm⟩ := Memory.wf_cons.mp h
    simp only [Memory.write]
    split
    · rename_i hab
      split
      · rename_i hv
        rw [hv]
        refine Memory.read_unlisted fun c hc => ?_
        rcases List.mem_cons.mp hc with rfl | hc
        · exact (Nat.ne_of_lt hab).symm
        · have := hlt c hc
          omega
      · simp [Memory.read_cons]
    · split
      · rename_i hab
        subst hab
        split
        · rename_i hv
          rw [hv]
          refine Memory.read_unlisted fun c hc => ?_
          have := hlt c hc
          omega
        · simp [Memory.read_cons]
      · rename_i hna hne
        rw [Memory.read_cons, if_neg (by omega)]
        exact ih hm

/-! ### A loaded program -/

theorem Memory.mem_ofBytes {q : List Byte} {a : Nat} {c : Host.Cell} (h : c ∈ Memory.ofBytes a q) :
    a ≤ c.1 ∧ c.1 < a + q.length := by
  induction q generalizing a with
  | nil => simp [Memory.ofBytes] at h
  | cons v q ih =>
    simp only [Memory.ofBytes] at h
    simp only [List.length_cons]
    split at h
    · have := ih h
      omega
    · rcases List.mem_cons.mp h with rfl | h
      · simp
      · have := ih h
        omega

theorem Memory.ofBytes_wf (a : Nat) (q : List Byte) : (Memory.ofBytes a q).wf := by
  induction q generalizing a with
  | nil => exact Memory.wf_nil
  | cons v q ih =>
    simp only [Memory.ofBytes]
    split
    · exact ih _
    · rename_i hv
      refine Memory.wf_cons.mpr ⟨fun c hc => ?_, hv, ih _⟩
      have := Memory.mem_ofBytes hc
      omega

theorem Memory.ofBytes_below (q : List Byte) : (Memory.ofBytes 0 q).below q.length := by
  intro c hc
  have := Memory.mem_ofBytes hc
  omega

/-- The loaded store reads back the bytes loaded (`20_memory.md` R46). -/
theorem Memory.read_ofBytes (q : List Byte) (a k : Nat) (h : k < q.length) :
    (Memory.ofBytes a q).read (a + k) = q[k] := by
  induction q generalizing a k with
  | nil => simp at h
  | cons v q ih =>
    simp only [Memory.ofBytes]
    cases k with
    | zero =>
      split
      · rename_i hv
        rw [Memory.read_unlisted]
        · simpa using hv.symm
        · intro c hc
          have := Memory.mem_ofBytes hc
          omega
      · simp [Memory.read_cons]
    | succ k =>
      have hk : k < q.length := by simpa using h
      have hr := ih (a + 1) k hk
      rw [Nat.add_right_comm] at hr
      split
      · simpa [Nat.add_assoc] using hr
      · rw [Memory.read_cons, if_neg (by omega)]
        simpa [Nat.add_assoc] using hr

@[simp] theorem Memory.length_toBytes (m : Memory) (n : Nat) : (m.toBytes n).length = n := by
  simp [Memory.toBytes]

theorem Memory.getElem_toBytes (m : Memory) (n a : Nat) (h : a < (m.toBytes n).length) :
    (m.toBytes n)[a] = m.read a := by
  simp [Memory.toBytes]

end Sys2Proof.Machine
end

