-- ==== Sys2Proof/Laws/State.lean ====
section
/-! SUPPORT. One lemma per field per named update of State, so that no proof unfolds a record update. -/

namespace Sys2Proof.Machine

/-! ### advance -/

@[simp] theorem State.advance_cfg (s : State) : (s.advance).cfg = s.cfg := rfl
@[simp] theorem State.advance_tape (s : State) : (s.advance).tape = s.tape := rfl
@[simp] theorem State.advance_dp (s : State) : (s.advance).dp = s.dp := rfl
@[simp] theorem State.advance_prog (s : State) : (s.advance).prog = s.prog := rfl
@[simp] theorem State.advance_psize (s : State) : (s.advance).psize = s.psize := rfl
@[simp] theorem State.advance_ip (s : State) : (s.advance).ip = s.ip + 1 := rfl
@[simp] theorem State.advance_err (s : State) : (s.advance).err = s.err := rfl
@[simp] theorem State.advance_port (s : State) : (s.advance).port = s.port := rfl
@[simp] theorem State.advance_busy (s : State) : (s.advance).busy = s.busy := rfl
@[simp] theorem State.advance_runs (s : State) : (s.advance).runs = s.runs := rfl
@[simp] theorem State.advance_pending (s : State) : (s.advance).pending = s.pending := rfl
@[simp] theorem State.advance_moves (s : State) : (s.advance).moves = s.moves := rfl
@[simp] theorem State.advance_input (s : State) : (s.advance).input = s.input := rfl
@[simp] theorem State.advance_taking (s : State) : (s.advance).taking = s.taking := rfl
@[simp] theorem State.advance_output (s : State) : (s.advance).output = s.output := rfl
@[simp] theorem State.advance_responses (s : State) : (s.advance).responses = s.responses := rfl

/-! ### jumpTo -/

@[simp] theorem State.jumpTo_cfg (s : State) (m : Nat) : (s.jumpTo m).cfg = s.cfg := rfl
@[simp] theorem State.jumpTo_tape (s : State) (m : Nat) : (s.jumpTo m).tape = s.tape := rfl
@[simp] theorem State.jumpTo_dp (s : State) (m : Nat) : (s.jumpTo m).dp = s.dp := rfl
@[simp] theorem State.jumpTo_prog (s : State) (m : Nat) : (s.jumpTo m).prog = s.prog := rfl
@[simp] theorem State.jumpTo_psize (s : State) (m : Nat) : (s.jumpTo m).psize = s.psize := rfl
@[simp] theorem State.jumpTo_ip (s : State) (m : Nat) : (s.jumpTo m).ip = m := rfl
@[simp] theorem State.jumpTo_err (s : State) (m : Nat) : (s.jumpTo m).err = s.err := rfl
@[simp] theorem State.jumpTo_port (s : State) (m : Nat) : (s.jumpTo m).port = s.port := rfl
@[simp] theorem State.jumpTo_busy (s : State) (m : Nat) : (s.jumpTo m).busy = s.busy := rfl
@[simp] theorem State.jumpTo_runs (s : State) (m : Nat) : (s.jumpTo m).runs = s.runs := rfl
@[simp] theorem State.jumpTo_pending (s : State) (m : Nat) : (s.jumpTo m).pending = s.pending := rfl
@[simp] theorem State.jumpTo_moves (s : State) (m : Nat) : (s.jumpTo m).moves = s.moves := rfl
@[simp] theorem State.jumpTo_input (s : State) (m : Nat) : (s.jumpTo m).input = s.input := rfl
@[simp] theorem State.jumpTo_taking (s : State) (m : Nat) : (s.jumpTo m).taking = s.taking := rfl
@[simp] theorem State.jumpTo_output (s : State) (m : Nat) : (s.jumpTo m).output = s.output := rfl
@[simp] theorem State.jumpTo_responses (s : State) (m : Nat) : (s.jumpTo m).responses = s.responses := rfl

/-! ### raiseUnmatched -/

@[simp] theorem State.raiseUnmatched_cfg (s : State) : (s.raiseUnmatched).cfg = s.cfg := rfl
@[simp] theorem State.raiseUnmatched_tape (s : State) : (s.raiseUnmatched).tape = s.tape := rfl
@[simp] theorem State.raiseUnmatched_dp (s : State) : (s.raiseUnmatched).dp = s.dp := rfl
@[simp] theorem State.raiseUnmatched_prog (s : State) : (s.raiseUnmatched).prog = s.prog := rfl
@[simp] theorem State.raiseUnmatched_psize (s : State) : (s.raiseUnmatched).psize = s.psize := rfl
@[simp] theorem State.raiseUnmatched_ip (s : State) : (s.raiseUnmatched).ip = s.ip := rfl
@[simp] theorem State.raiseUnmatched_err (s : State) : (s.raiseUnmatched).err = true := rfl
@[simp] theorem State.raiseUnmatched_port (s : State) : (s.raiseUnmatched).port = s.port := rfl
@[simp] theorem State.raiseUnmatched_busy (s : State) : (s.raiseUnmatched).busy = s.busy := rfl
@[simp] theorem State.raiseUnmatched_runs (s : State) : (s.raiseUnmatched).runs = s.runs := rfl
@[simp] theorem State.raiseUnmatched_pending (s : State) : (s.raiseUnmatched).pending = s.pending := rfl
@[simp] theorem State.raiseUnmatched_moves (s : State) : (s.raiseUnmatched).moves = s.moves := rfl
@[simp] theorem State.raiseUnmatched_input (s : State) : (s.raiseUnmatched).input = s.input := rfl
@[simp] theorem State.raiseUnmatched_taking (s : State) : (s.raiseUnmatched).taking = s.taking := rfl
@[simp] theorem State.raiseUnmatched_output (s : State) : (s.raiseUnmatched).output = s.output := rfl
@[simp] theorem State.raiseUnmatched_responses (s : State) : (s.raiseUnmatched).responses = s.responses := rfl

/-! ### setCell -/

@[simp] theorem State.setCell_cfg (s : State) (v : Byte) : (s.setCell v).cfg = s.cfg := rfl
@[simp] theorem State.setCell_tape (s : State) (v : Byte) : (s.setCell v).tape = s.tape.write s.dp v := rfl
@[simp] theorem State.setCell_dp (s : State) (v : Byte) : (s.setCell v).dp = s.dp := rfl
@[simp] theorem State.setCell_prog (s : State) (v : Byte) : (s.setCell v).prog = s.prog := rfl
@[simp] theorem State.setCell_psize (s : State) (v : Byte) : (s.setCell v).psize = s.psize := rfl
@[simp] theorem State.setCell_ip (s : State) (v : Byte) : (s.setCell v).ip = s.ip := rfl
@[simp] theorem State.setCell_err (s : State) (v : Byte) : (s.setCell v).err = s.err := rfl
@[simp] theorem State.setCell_port (s : State) (v : Byte) : (s.setCell v).port = s.port := rfl
@[simp] theorem State.setCell_busy (s : State) (v : Byte) : (s.setCell v).busy = s.busy := rfl
@[simp] theorem State.setCell_runs (s : State) (v : Byte) : (s.setCell v).runs = s.runs := rfl
@[simp] theorem State.setCell_pending (s : State) (v : Byte) : (s.setCell v).pending = s.pending := rfl
@[simp] theorem State.setCell_moves (s : State) (v : Byte) : (s.setCell v).moves = s.moves := rfl
@[simp] theorem State.setCell_input (s : State) (v : Byte) : (s.setCell v).input = s.input := rfl
@[simp] theorem State.setCell_taking (s : State) (v : Byte) : (s.setCell v).taking = s.taking := rfl
@[simp] theorem State.setCell_output (s : State) (v : Byte) : (s.setCell v).output = s.output := rfl
@[simp] theorem State.setCell_responses (s : State) (v : Byte) : (s.setCell v).responses = s.responses := rfl

/-! ### handOver -/

@[simp] theorem State.handOver_cfg (s : State) (v : Byte) : (s.handOver v).cfg = s.cfg := rfl
@[simp] theorem State.handOver_tape (s : State) (v : Byte) : (s.handOver v).tape = s.tape := rfl
@[simp] theorem State.handOver_dp (s : State) (v : Byte) : (s.handOver v).dp = s.dp := rfl
@[simp] theorem State.handOver_prog (s : State) (v : Byte) : (s.handOver v).prog = s.prog := rfl
@[simp] theorem State.handOver_psize (s : State) (v : Byte) : (s.handOver v).psize = s.psize := rfl
@[simp] theorem State.handOver_ip (s : State) (v : Byte) : (s.handOver v).ip = s.ip := rfl
@[simp] theorem State.handOver_err (s : State) (v : Byte) : (s.handOver v).err = s.err := rfl
@[simp] theorem State.handOver_port (s : State) (v : Byte) : (s.handOver v).port = .idle := rfl
@[simp] theorem State.handOver_busy (s : State) (v : Byte) : (s.handOver v).busy = s.busy := rfl
@[simp] theorem State.handOver_runs (s : State) (v : Byte) : (s.handOver v).runs = s.runs := rfl
@[simp] theorem State.handOver_pending (s : State) (v : Byte) : (s.handOver v).pending = s.pending := rfl
@[simp] theorem State.handOver_moves (s : State) (v : Byte) : (s.handOver v).moves = s.moves := rfl
@[simp] theorem State.handOver_input (s : State) (v : Byte) : (s.handOver v).input = s.input := rfl
@[simp] theorem State.handOver_taking (s : State) (v : Byte) : (s.handOver v).taking = s.taking := rfl
@[simp] theorem State.handOver_output (s : State) (v : Byte) : (s.handOver v).output = s.output ++ [v] := rfl
@[simp] theorem State.handOver_responses (s : State) (v : Byte) : (s.handOver v).responses = s.responses := rfl

/-! ### waitOffering -/

@[simp] theorem State.waitOffering_cfg (s : State) (v : Byte) : (s.waitOffering v).cfg = s.cfg := rfl
@[simp] theorem State.waitOffering_tape (s : State) (v : Byte) : (s.waitOffering v).tape = s.tape := rfl
@[simp] theorem State.waitOffering_dp (s : State) (v : Byte) : (s.waitOffering v).dp = s.dp := rfl
@[simp] theorem State.waitOffering_prog (s : State) (v : Byte) : (s.waitOffering v).prog = s.prog := rfl
@[simp] theorem State.waitOffering_psize (s : State) (v : Byte) : (s.waitOffering v).psize = s.psize := rfl
@[simp] theorem State.waitOffering_ip (s : State) (v : Byte) : (s.waitOffering v).ip = s.ip := rfl
@[simp] theorem State.waitOffering_err (s : State) (v : Byte) : (s.waitOffering v).err = s.err := rfl
@[simp] theorem State.waitOffering_port (s : State) (v : Byte) : (s.waitOffering v).port = .offering v := rfl
@[simp] theorem State.waitOffering_busy (s : State) (v : Byte) : (s.waitOffering v).busy = s.busy := rfl
@[simp] theorem State.waitOffering_runs (s : State) (v : Byte) : (s.waitOffering v).runs = s.runs := rfl
@[simp] theorem State.waitOffering_pending (s : State) (v : Byte) : (s.waitOffering v).pending = s.pending := rfl
@[simp] theorem State.waitOffering_moves (s : State) (v : Byte) : (s.waitOffering v).moves = s.moves := rfl
@[simp] theorem State.waitOffering_input (s : State) (v : Byte) : (s.waitOffering v).input = s.input := rfl
@[simp] theorem State.waitOffering_taking (s : State) (v : Byte) : (s.waitOffering v).taking = s.taking := rfl
@[simp] theorem State.waitOffering_output (s : State) (v : Byte) : (s.waitOffering v).output = s.output := rfl
@[simp] theorem State.waitOffering_responses (s : State) (v : Byte) : (s.waitOffering v).responses = s.responses := rfl

/-! ### takeInput -/

@[simp] theorem State.takeInput_cfg (s : State) (rest : List InItem) : (s.takeInput rest).cfg = s.cfg := rfl
@[simp] theorem State.takeInput_tape (s : State) (rest : List InItem) : (s.takeInput rest).tape = s.tape := rfl
@[simp] theorem State.takeInput_dp (s : State) (rest : List InItem) : (s.takeInput rest).dp = s.dp := rfl
@[simp] theorem State.takeInput_prog (s : State) (rest : List InItem) : (s.takeInput rest).prog = s.prog := rfl
@[simp] theorem State.takeInput_psize (s : State) (rest : List InItem) : (s.takeInput rest).psize = s.psize := rfl
@[simp] theorem State.takeInput_ip (s : State) (rest : List InItem) : (s.takeInput rest).ip = s.ip := rfl
@[simp] theorem State.takeInput_err (s : State) (rest : List InItem) : (s.takeInput rest).err = s.err := rfl
@[simp] theorem State.takeInput_port (s : State) (rest : List InItem) : (s.takeInput rest).port = .idle := rfl
@[simp] theorem State.takeInput_busy (s : State) (rest : List InItem) : (s.takeInput rest).busy = s.busy := rfl
@[simp] theorem State.takeInput_runs (s : State) (rest : List InItem) : (s.takeInput rest).runs = s.runs := rfl
@[simp] theorem State.takeInput_pending (s : State) (rest : List InItem) : (s.takeInput rest).pending = s.pending := rfl
@[simp] theorem State.takeInput_moves (s : State) (rest : List InItem) : (s.takeInput rest).moves = s.moves := rfl
@[simp] theorem State.takeInput_input (s : State) (rest : List InItem) : (s.takeInput rest).input = rest := rfl
@[simp] theorem State.takeInput_taking (s : State) (rest : List InItem) : (s.takeInput rest).taking = s.taking := rfl
@[simp] theorem State.takeInput_output (s : State) (rest : List InItem) : (s.takeInput rest).output = s.output := rfl
@[simp] theorem State.takeInput_responses (s : State) (rest : List InItem) : (s.takeInput rest).responses = s.responses := rfl

/-! ### waitAwaiting -/

@[simp] theorem State.waitAwaiting_cfg (s : State) : (s.waitAwaiting).cfg = s.cfg := rfl
@[simp] theorem State.waitAwaiting_tape (s : State) : (s.waitAwaiting).tape = s.tape := rfl
@[simp] theorem State.waitAwaiting_dp (s : State) : (s.waitAwaiting).dp = s.dp := rfl
@[simp] theorem State.waitAwaiting_prog (s : State) : (s.waitAwaiting).prog = s.prog := rfl
@[simp] theorem State.waitAwaiting_psize (s : State) : (s.waitAwaiting).psize = s.psize := rfl
@[simp] theorem State.waitAwaiting_ip (s : State) : (s.waitAwaiting).ip = s.ip := rfl
@[simp] theorem State.waitAwaiting_err (s : State) : (s.waitAwaiting).err = s.err := rfl
@[simp] theorem State.waitAwaiting_port (s : State) : (s.waitAwaiting).port = .awaiting := rfl
@[simp] theorem State.waitAwaiting_busy (s : State) : (s.waitAwaiting).busy = s.busy := rfl
@[simp] theorem State.waitAwaiting_runs (s : State) : (s.waitAwaiting).runs = s.runs := rfl
@[simp] theorem State.waitAwaiting_pending (s : State) : (s.waitAwaiting).pending = s.pending := rfl
@[simp] theorem State.waitAwaiting_moves (s : State) : (s.waitAwaiting).moves = s.moves := rfl
@[simp] theorem State.waitAwaiting_input (s : State) : (s.waitAwaiting).input = s.input := rfl
@[simp] theorem State.waitAwaiting_taking (s : State) : (s.waitAwaiting).taking = s.taking := rfl
@[simp] theorem State.waitAwaiting_output (s : State) : (s.waitAwaiting).output = s.output := rfl
@[simp] theorem State.waitAwaiting_responses (s : State) : (s.waitAwaiting).responses = s.responses := rfl

/-! ### resetEngine -/

@[simp] theorem State.resetEngine_cfg (s : State) : (s.resetEngine).cfg = s.cfg := rfl
@[simp] theorem State.resetEngine_tape (s : State) : (s.resetEngine).tape = [] := rfl
@[simp] theorem State.resetEngine_dp (s : State) : (s.resetEngine).dp = 0 := rfl
@[simp] theorem State.resetEngine_prog (s : State) : (s.resetEngine).prog = [] := rfl
@[simp] theorem State.resetEngine_psize (s : State) : (s.resetEngine).psize = 0 := rfl
@[simp] theorem State.resetEngine_ip (s : State) : (s.resetEngine).ip = 0 := rfl
@[simp] theorem State.resetEngine_err (s : State) : (s.resetEngine).err = false := rfl
@[simp] theorem State.resetEngine_port (s : State) : (s.resetEngine).port = .idle := rfl
@[simp] theorem State.resetEngine_busy (s : State) : (s.resetEngine).busy = none := rfl
@[simp] theorem State.resetEngine_runs (s : State) : (s.resetEngine).runs = 0 := rfl
@[simp] theorem State.resetEngine_pending (s : State) : (s.resetEngine).pending = s.pending := rfl
@[simp] theorem State.resetEngine_moves (s : State) : (s.resetEngine).moves = s.moves := rfl
@[simp] theorem State.resetEngine_input (s : State) : (s.resetEngine).input = s.input := rfl
@[simp] theorem State.resetEngine_taking (s : State) : (s.resetEngine).taking = s.taking := rfl
@[simp] theorem State.resetEngine_output (s : State) : (s.resetEngine).output = s.output := rfl
@[simp] theorem State.resetEngine_responses (s : State) : (s.resetEngine).responses = s.responses := rfl

/-! ### respond -/

@[simp] theorem State.respond_cfg (s : State) (r : Response) : (s.respond r).cfg = s.cfg := rfl
@[simp] theorem State.respond_tape (s : State) (r : Response) : (s.respond r).tape = s.tape := rfl
@[simp] theorem State.respond_dp (s : State) (r : Response) : (s.respond r).dp = s.dp := rfl
@[simp] theorem State.respond_prog (s : State) (r : Response) : (s.respond r).prog = s.prog := rfl
@[simp] theorem State.respond_psize (s : State) (r : Response) : (s.respond r).psize = s.psize := rfl
@[simp] theorem State.respond_ip (s : State) (r : Response) : (s.respond r).ip = s.ip := rfl
@[simp] theorem State.respond_err (s : State) (r : Response) : (s.respond r).err = s.err := rfl
@[simp] theorem State.respond_port (s : State) (r : Response) : (s.respond r).port = s.port := rfl
@[simp] theorem State.respond_busy (s : State) (r : Response) : (s.respond r).busy = s.busy := rfl
@[simp] theorem State.respond_runs (s : State) (r : Response) : (s.respond r).runs = s.runs := rfl
@[simp] theorem State.respond_pending (s : State) (r : Response) : (s.respond r).pending = s.pending := rfl
@[simp] theorem State.respond_moves (s : State) (r : Response) : (s.respond r).moves = s.moves := rfl
@[simp] theorem State.respond_input (s : State) (r : Response) : (s.respond r).input = s.input := rfl
@[simp] theorem State.respond_taking (s : State) (r : Response) : (s.respond r).taking = s.taking := rfl
@[simp] theorem State.respond_output (s : State) (r : Response) : (s.respond r).output = s.output := rfl
@[simp] theorem State.respond_responses (s : State) (r : Response) : (s.respond r).responses = s.responses ++ [r] := rfl

/-! ### replaceProgram -/

@[simp] theorem State.replaceProgram_cfg (s : State) (q : List Byte) : (s.replaceProgram q).cfg = s.cfg := rfl
@[simp] theorem State.replaceProgram_tape (s : State) (q : List Byte) : (s.replaceProgram q).tape = s.tape := rfl
@[simp] theorem State.replaceProgram_dp (s : State) (q : List Byte) : (s.replaceProgram q).dp = 0 := rfl
@[simp] theorem State.replaceProgram_prog (s : State) (q : List Byte) : (s.replaceProgram q).prog = Memory.ofBytes 0 q := rfl
@[simp] theorem State.replaceProgram_psize (s : State) (q : List Byte) : (s.replaceProgram q).psize = q.length := rfl
@[simp] theorem State.replaceProgram_ip (s : State) (q : List Byte) : (s.replaceProgram q).ip = 0 := rfl
@[simp] theorem State.replaceProgram_err (s : State) (q : List Byte) : (s.replaceProgram q).err = false := rfl
@[simp] theorem State.replaceProgram_port (s : State) (q : List Byte) : (s.replaceProgram q).port = s.port := rfl
@[simp] theorem State.replaceProgram_busy (s : State) (q : List Byte) : (s.replaceProgram q).busy = s.busy := rfl
@[simp] theorem State.replaceProgram_runs (s : State) (q : List Byte) : (s.replaceProgram q).runs = s.runs := rfl
@[simp] theorem State.replaceProgram_pending (s : State) (q : List Byte) : (s.replaceProgram q).pending = s.pending := rfl
@[simp] theorem State.replaceProgram_moves (s : State) (q : List Byte) : (s.replaceProgram q).moves = s.moves := rfl
@[simp] theorem State.replaceProgram_input (s : State) (q : List Byte) : (s.replaceProgram q).input = s.input := rfl
@[simp] theorem State.replaceProgram_taking (s : State) (q : List Byte) : (s.replaceProgram q).taking = s.taking := rfl
@[simp] theorem State.replaceProgram_output (s : State) (q : List Byte) : (s.replaceProgram q).output = s.output := rfl
@[simp] theorem State.replaceProgram_responses (s : State) (q : List Byte) : (s.replaceProgram q).responses = s.responses := rfl

/-! ### setDp -/

@[simp] theorem State.setDp_cfg (s : State) (v : Nat) : (s.setDp v).cfg = s.cfg := rfl
@[simp] theorem State.setDp_tape (s : State) (v : Nat) : (s.setDp v).tape = s.tape := rfl
@[simp] theorem State.setDp_dp (s : State) (v : Nat) : (s.setDp v).dp = v := rfl
@[simp] theorem State.setDp_prog (s : State) (v : Nat) : (s.setDp v).prog = s.prog := rfl
@[simp] theorem State.setDp_psize (s : State) (v : Nat) : (s.setDp v).psize = s.psize := rfl
@[simp] theorem State.setDp_ip (s : State) (v : Nat) : (s.setDp v).ip = s.ip := rfl
@[simp] theorem State.setDp_err (s : State) (v : Nat) : (s.setDp v).err = s.err := rfl
@[simp] theorem State.setDp_port (s : State) (v : Nat) : (s.setDp v).port = s.port := rfl
@[simp] theorem State.setDp_busy (s : State) (v : Nat) : (s.setDp v).busy = s.busy := rfl
@[simp] theorem State.setDp_runs (s : State) (v : Nat) : (s.setDp v).runs = s.runs := rfl
@[simp] theorem State.setDp_pending (s : State) (v : Nat) : (s.setDp v).pending = s.pending := rfl
@[simp] theorem State.setDp_moves (s : State) (v : Nat) : (s.setDp v).moves = s.moves := rfl
@[simp] theorem State.setDp_input (s : State) (v : Nat) : (s.setDp v).input = s.input := rfl
@[simp] theorem State.setDp_taking (s : State) (v : Nat) : (s.setDp v).taking = s.taking := rfl
@[simp] theorem State.setDp_output (s : State) (v : Nat) : (s.setDp v).output = s.output := rfl
@[simp] theorem State.setDp_responses (s : State) (v : Nat) : (s.setDp v).responses = s.responses := rfl

/-! ### setPending -/

@[simp] theorem State.setPending_cfg (s : State) (cs : List Command) : (s.setPending cs).cfg = s.cfg := rfl
@[simp] theorem State.setPending_tape (s : State) (cs : List Command) : (s.setPending cs).tape = s.tape := rfl
@[simp] theorem State.setPending_dp (s : State) (cs : List Command) : (s.setPending cs).dp = s.dp := rfl
@[simp] theorem State.setPending_prog (s : State) (cs : List Command) : (s.setPending cs).prog = s.prog := rfl
@[simp] theorem State.setPending_psize (s : State) (cs : List Command) : (s.setPending cs).psize = s.psize := rfl
@[simp] theorem State.setPending_ip (s : State) (cs : List Command) : (s.setPending cs).ip = s.ip := rfl
@[simp] theorem State.setPending_err (s : State) (cs : List Command) : (s.setPending cs).err = s.err := rfl
@[simp] theorem State.setPending_port (s : State) (cs : List Command) : (s.setPending cs).port = s.port := rfl
@[simp] theorem State.setPending_busy (s : State) (cs : List Command) : (s.setPending cs).busy = s.busy := rfl
@[simp] theorem State.setPending_runs (s : State) (cs : List Command) : (s.setPending cs).runs = s.runs := rfl
@[simp] theorem State.setPending_pending (s : State) (cs : List Command) : (s.setPending cs).pending = cs := rfl
@[simp] theorem State.setPending_moves (s : State) (cs : List Command) : (s.setPending cs).moves = s.moves := rfl
@[simp] theorem State.setPending_input (s : State) (cs : List Command) : (s.setPending cs).input = s.input := rfl
@[simp] theorem State.setPending_taking (s : State) (cs : List Command) : (s.setPending cs).taking = s.taking := rfl
@[simp] theorem State.setPending_output (s : State) (cs : List Command) : (s.setPending cs).output = s.output := rfl
@[simp] theorem State.setPending_responses (s : State) (cs : List Command) : (s.setPending cs).responses = s.responses := rfl

/-! ### setMoves -/

@[simp] theorem State.setMoves_cfg (s : State) (ms : List HostMove) : (s.setMoves ms).cfg = s.cfg := rfl
@[simp] theorem State.setMoves_tape (s : State) (ms : List HostMove) : (s.setMoves ms).tape = s.tape := rfl
@[simp] theorem State.setMoves_dp (s : State) (ms : List HostMove) : (s.setMoves ms).dp = s.dp := rfl
@[simp] theorem State.setMoves_prog (s : State) (ms : List HostMove) : (s.setMoves ms).prog = s.prog := rfl
@[simp] theorem State.setMoves_psize (s : State) (ms : List HostMove) : (s.setMoves ms).psize = s.psize := rfl
@[simp] theorem State.setMoves_ip (s : State) (ms : List HostMove) : (s.setMoves ms).ip = s.ip := rfl
@[simp] theorem State.setMoves_err (s : State) (ms : List HostMove) : (s.setMoves ms).err = s.err := rfl
@[simp] theorem State.setMoves_port (s : State) (ms : List HostMove) : (s.setMoves ms).port = s.port := rfl
@[simp] theorem State.setMoves_busy (s : State) (ms : List HostMove) : (s.setMoves ms).busy = s.busy := rfl
@[simp] theorem State.setMoves_runs (s : State) (ms : List HostMove) : (s.setMoves ms).runs = s.runs := rfl
@[simp] theorem State.setMoves_pending (s : State) (ms : List HostMove) : (s.setMoves ms).pending = s.pending := rfl
@[simp] theorem State.setMoves_moves (s : State) (ms : List HostMove) : (s.setMoves ms).moves = ms := rfl
@[simp] theorem State.setMoves_input (s : State) (ms : List HostMove) : (s.setMoves ms).input = s.input := rfl
@[simp] theorem State.setMoves_taking (s : State) (ms : List HostMove) : (s.setMoves ms).taking = s.taking := rfl
@[simp] theorem State.setMoves_output (s : State) (ms : List HostMove) : (s.setMoves ms).output = s.output := rfl
@[simp] theorem State.setMoves_responses (s : State) (ms : List HostMove) : (s.setMoves ms).responses = s.responses := rfl

/-! ### setInput -/

@[simp] theorem State.setInput_cfg (s : State) (xs : List InItem) : (s.setInput xs).cfg = s.cfg := rfl
@[simp] theorem State.setInput_tape (s : State) (xs : List InItem) : (s.setInput xs).tape = s.tape := rfl
@[simp] theorem State.setInput_dp (s : State) (xs : List InItem) : (s.setInput xs).dp = s.dp := rfl
@[simp] theorem State.setInput_prog (s : State) (xs : List InItem) : (s.setInput xs).prog = s.prog := rfl
@[simp] theorem State.setInput_psize (s : State) (xs : List InItem) : (s.setInput xs).psize = s.psize := rfl
@[simp] theorem State.setInput_ip (s : State) (xs : List InItem) : (s.setInput xs).ip = s.ip := rfl
@[simp] theorem State.setInput_err (s : State) (xs : List InItem) : (s.setInput xs).err = s.err := rfl
@[simp] theorem State.setInput_port (s : State) (xs : List InItem) : (s.setInput xs).port = s.port := rfl
@[simp] theorem State.setInput_busy (s : State) (xs : List InItem) : (s.setInput xs).busy = s.busy := rfl
@[simp] theorem State.setInput_runs (s : State) (xs : List InItem) : (s.setInput xs).runs = s.runs := rfl
@[simp] theorem State.setInput_pending (s : State) (xs : List InItem) : (s.setInput xs).pending = s.pending := rfl
@[simp] theorem State.setInput_moves (s : State) (xs : List InItem) : (s.setInput xs).moves = s.moves := rfl
@[simp] theorem State.setInput_input (s : State) (xs : List InItem) : (s.setInput xs).input = xs := rfl
@[simp] theorem State.setInput_taking (s : State) (xs : List InItem) : (s.setInput xs).taking = s.taking := rfl
@[simp] theorem State.setInput_output (s : State) (xs : List InItem) : (s.setInput xs).output = s.output := rfl
@[simp] theorem State.setInput_responses (s : State) (xs : List InItem) : (s.setInput xs).responses = s.responses := rfl

/-! ### setTaking -/

@[simp] theorem State.setTaking_cfg (s : State) (b : Bool) : (s.setTaking b).cfg = s.cfg := rfl
@[simp] theorem State.setTaking_tape (s : State) (b : Bool) : (s.setTaking b).tape = s.tape := rfl
@[simp] theorem State.setTaking_dp (s : State) (b : Bool) : (s.setTaking b).dp = s.dp := rfl
@[simp] theorem State.setTaking_prog (s : State) (b : Bool) : (s.setTaking b).prog = s.prog := rfl
@[simp] theorem State.setTaking_psize (s : State) (b : Bool) : (s.setTaking b).psize = s.psize := rfl
@[simp] theorem State.setTaking_ip (s : State) (b : Bool) : (s.setTaking b).ip = s.ip := rfl
@[simp] theorem State.setTaking_err (s : State) (b : Bool) : (s.setTaking b).err = s.err := rfl
@[simp] theorem State.setTaking_port (s : State) (b : Bool) : (s.setTaking b).port = s.port := rfl
@[simp] theorem State.setTaking_busy (s : State) (b : Bool) : (s.setTaking b).busy = s.busy := rfl
@[simp] theorem State.setTaking_runs (s : State) (b : Bool) : (s.setTaking b).runs = s.runs := rfl
@[simp] theorem State.setTaking_pending (s : State) (b : Bool) : (s.setTaking b).pending = s.pending := rfl
@[simp] theorem State.setTaking_moves (s : State) (b : Bool) : (s.setTaking b).moves = s.moves := rfl
@[simp] theorem State.setTaking_input (s : State) (b : Bool) : (s.setTaking b).input = s.input := rfl
@[simp] theorem State.setTaking_taking (s : State) (b : Bool) : (s.setTaking b).taking = b := rfl
@[simp] theorem State.setTaking_output (s : State) (b : Bool) : (s.setTaking b).output = s.output := rfl
@[simp] theorem State.setTaking_responses (s : State) (b : Bool) : (s.setTaking b).responses = s.responses := rfl

/-! ### startRun -/

@[simp] theorem State.startRun_cfg (s : State) : (s.startRun).cfg = s.cfg := rfl
@[simp] theorem State.startRun_tape (s : State) : (s.startRun).tape = s.tape := rfl
@[simp] theorem State.startRun_dp (s : State) : (s.startRun).dp = s.dp := rfl
@[simp] theorem State.startRun_prog (s : State) : (s.startRun).prog = s.prog := rfl
@[simp] theorem State.startRun_psize (s : State) : (s.startRun).psize = s.psize := rfl
@[simp] theorem State.startRun_ip (s : State) : (s.startRun).ip = s.ip := rfl
@[simp] theorem State.startRun_err (s : State) : (s.startRun).err = s.err := rfl
@[simp] theorem State.startRun_port (s : State) : (s.startRun).port = s.port := rfl
@[simp] theorem State.startRun_busy (s : State) : (s.startRun).busy = s.busy := rfl
@[simp] theorem State.startRun_runs (s : State) : (s.startRun).runs = s.runs + 1 := rfl
@[simp] theorem State.startRun_pending (s : State) : (s.startRun).pending = s.pending := rfl
@[simp] theorem State.startRun_moves (s : State) : (s.startRun).moves = s.moves := rfl
@[simp] theorem State.startRun_input (s : State) : (s.startRun).input = s.input := rfl
@[simp] theorem State.startRun_taking (s : State) : (s.startRun).taking = s.taking := rfl
@[simp] theorem State.startRun_output (s : State) : (s.startRun).output = s.output := rfl
@[simp] theorem State.startRun_responses (s : State) : (s.startRun).responses = s.responses := rfl

/-! ### keepWaiting -/

@[simp] theorem State.keepWaiting_cfg (s : State) (who : Issuer) : (s.keepWaiting who).cfg = s.cfg := rfl
@[simp] theorem State.keepWaiting_tape (s : State) (who : Issuer) : (s.keepWaiting who).tape = s.tape := rfl
@[simp] theorem State.keepWaiting_dp (s : State) (who : Issuer) : (s.keepWaiting who).dp = s.dp := rfl
@[simp] theorem State.keepWaiting_prog (s : State) (who : Issuer) : (s.keepWaiting who).prog = s.prog := rfl
@[simp] theorem State.keepWaiting_psize (s : State) (who : Issuer) : (s.keepWaiting who).psize = s.psize := rfl
@[simp] theorem State.keepWaiting_ip (s : State) (who : Issuer) : (s.keepWaiting who).ip = s.ip := rfl
@[simp] theorem State.keepWaiting_err (s : State) (who : Issuer) : (s.keepWaiting who).err = s.err := rfl
@[simp] theorem State.keepWaiting_port (s : State) (who : Issuer) : (s.keepWaiting who).port = s.port := rfl
@[simp] theorem State.keepWaiting_busy (s : State) (who : Issuer) : (s.keepWaiting who).busy = some who := rfl
@[simp] theorem State.keepWaiting_runs (s : State) (who : Issuer) : (s.keepWaiting who).runs = s.runs := rfl
@[simp] theorem State.keepWaiting_pending (s : State) (who : Issuer) : (s.keepWaiting who).pending = s.pending := rfl
@[simp] theorem State.keepWaiting_moves (s : State) (who : Issuer) : (s.keepWaiting who).moves = s.moves := rfl
@[simp] theorem State.keepWaiting_input (s : State) (who : Issuer) : (s.keepWaiting who).input = s.input := rfl
@[simp] theorem State.keepWaiting_taking (s : State) (who : Issuer) : (s.keepWaiting who).taking = s.taking := rfl
@[simp] theorem State.keepWaiting_output (s : State) (who : Issuer) : (s.keepWaiting who).output = s.output := rfl
@[simp] theorem State.keepWaiting_responses (s : State) (who : Issuer) : (s.keepWaiting who).responses = s.responses := rfl

/-! ### answer: only `busy`, `runs` and `responses` change -/

@[simp] theorem State.answer_cfg (s : State) (who : Issuer) (r : StepResult) : (s.answer who r).cfg = s.cfg := by
  cases who <;> cases r <;> rfl
@[simp] theorem State.answer_tape (s : State) (who : Issuer) (r : StepResult) : (s.answer who r).tape = s.tape := by
  cases who <;> cases r <;> rfl
@[simp] theorem State.answer_dp (s : State) (who : Issuer) (r : StepResult) : (s.answer who r).dp = s.dp := by
  cases who <;> cases r <;> rfl
@[simp] theorem State.answer_prog (s : State) (who : Issuer) (r : StepResult) : (s.answer who r).prog = s.prog := by
  cases who <;> cases r <;> rfl
@[simp] theorem State.answer_psize (s : State) (who : Issuer) (r : StepResult) : (s.answer who r).psize = s.psize := by
  cases who <;> cases r <;> rfl
@[simp] theorem State.answer_ip (s : State) (who : Issuer) (r : StepResult) : (s.answer who r).ip = s.ip := by
  cases who <;> cases r <;> rfl
@[simp] theorem State.answer_err (s : State) (who : Issuer) (r : StepResult) : (s.answer who r).err = s.err := by
  cases who <;> cases r <;> rfl
@[simp] theorem State.answer_port (s : State) (who : Issuer) (r : StepResult) : (s.answer who r).port = s.port := by
  cases who <;> cases r <;> rfl
@[simp] theorem State.answer_pending (s : State) (who : Issuer) (r : StepResult) : (s.answer who r).pending = s.pending := by
  cases who <;> cases r <;> rfl
@[simp] theorem State.answer_moves (s : State) (who : Issuer) (r : StepResult) : (s.answer who r).moves = s.moves := by
  cases who <;> cases r <;> rfl
@[simp] theorem State.answer_input (s : State) (who : Issuer) (r : StepResult) : (s.answer who r).input = s.input := by
  cases who <;> cases r <;> rfl
@[simp] theorem State.answer_taking (s : State) (who : Issuer) (r : StepResult) : (s.answer who r).taking = s.taking := by
  cases who <;> cases r <;> rfl
@[simp] theorem State.answer_output (s : State) (who : Issuer) (r : StepResult) : (s.answer who r).output = s.output := by
  cases who <;> cases r <;> rfl
@[simp] theorem State.answer_busy (s : State) (who : Issuer) (r : StepResult) : (s.answer who r).busy = none := by
  cases who <;> cases r <;> rfl

/-! ### load: the engine fields in one case split -/

@[simp] theorem State.load_cfg (s : State) (q : List Byte) : (s.load q).cfg = s.cfg := by
  unfold State.load; split <;> rfl
@[simp] theorem State.load_tape (s : State) (q : List Byte) : (s.load q).tape = s.tape := by
  unfold State.load; split <;> rfl
@[simp] theorem State.load_port (s : State) (q : List Byte) : (s.load q).port = s.port := by
  unfold State.load; split <;> rfl
@[simp] theorem State.load_busy (s : State) (q : List Byte) : (s.load q).busy = s.busy := by
  unfold State.load; split <;> rfl
@[simp] theorem State.load_runs (s : State) (q : List Byte) : (s.load q).runs = s.runs := by
  unfold State.load; split <;> rfl
@[simp] theorem State.load_pending (s : State) (q : List Byte) : (s.load q).pending = s.pending := by
  unfold State.load; split <;> rfl
@[simp] theorem State.load_moves (s : State) (q : List Byte) : (s.load q).moves = s.moves := by
  unfold State.load; split <;> rfl
@[simp] theorem State.load_input (s : State) (q : List Byte) : (s.load q).input = s.input := by
  unfold State.load; split <;> rfl
@[simp] theorem State.load_taking (s : State) (q : List Byte) : (s.load q).taking = s.taking := by
  unfold State.load; split <;> rfl
@[simp] theorem State.load_output (s : State) (q : List Byte) : (s.load q).output = s.output := by
  unfold State.load; split <;> rfl

/-! ### settle: only `busy`, `runs` and `responses` change -/

@[simp] theorem State.settle_cfg (s : State) (who : Issuer) : (s.settle who).cfg = s.cfg := by
  unfold State.settle; split <;> simp_all
@[simp] theorem State.settle_tape (s : State) (who : Issuer) : (s.settle who).tape = s.tape := by
  unfold State.settle; split <;> simp_all
@[simp] theorem State.settle_dp (s : State) (who : Issuer) : (s.settle who).dp = s.dp := by
  unfold State.settle; split <;> simp_all
@[simp] theorem State.settle_prog (s : State) (who : Issuer) : (s.settle who).prog = s.prog := by
  unfold State.settle; split <;> simp_all
@[simp] theorem State.settle_psize (s : State) (who : Issuer) : (s.settle who).psize = s.psize := by
  unfold State.settle; split <;> simp_all
@[simp] theorem State.settle_ip (s : State) (who : Issuer) : (s.settle who).ip = s.ip := by
  unfold State.settle; split <;> simp_all
@[simp] theorem State.settle_err (s : State) (who : Issuer) : (s.settle who).err = s.err := by
  unfold State.settle; split <;> simp_all
@[simp] theorem State.settle_port (s : State) (who : Issuer) : (s.settle who).port = s.port := by
  unfold State.settle; split <;> simp_all
@[simp] theorem State.settle_pending (s : State) (who : Issuer) : (s.settle who).pending = s.pending := by
  unfold State.settle; split <;> simp_all
@[simp] theorem State.settle_moves (s : State) (who : Issuer) : (s.settle who).moves = s.moves := by
  unfold State.settle; split <;> simp_all
@[simp] theorem State.settle_input (s : State) (who : Issuer) : (s.settle who).input = s.input := by
  unfold State.settle; split <;> simp_all
@[simp] theorem State.settle_taking (s : State) (who : Issuer) : (s.settle who).taking = s.taking := by
  unfold State.settle; split <;> simp_all
@[simp] theorem State.settle_output (s : State) (who : Issuer) : (s.settle who).output = s.output := by
  unfold State.settle; split <;> simp_all

end Sys2Proof.Machine
end

