-- ==== Sys2Proof/Laws/Ops.lean ====
section
/-! SUPPORT. One lemma per shared operation that says once everything it can do. -/

namespace Sys2Proof.Machine

/-! ### Units -/

theorem ptrDec_lt {n p : Nat} (hp : p < n) : ptrDec n p < n := by
  unfold ptrDec
  split <;> omega

theorem ptrInc_lt {n p : Nat} (hp : p < n) : ptrInc n p < n := by
  unfold ptrInc
  split <;> omega

@[simp] theorem toNat_aluInc (v : Byte) : (aluInc v).toNat = (v.toNat + 1) % 256 := by
  simp [aluInc]

@[simp] theorem toNat_aluDec (v : Byte) : (aluDec v).toNat = (v.toNat + 255) % 256 := by
  simp [aluDec]

theorem aluInc_eq_add (v : Byte) : aluInc v = v + 1 := by
  apply BitVec.eq_of_toNat_eq
  simp [BitVec.toNat_add]

theorem aluDec_eq_sub (v : Byte) : aluDec v = v - 1 := by
  apply BitVec.eq_of_toNat_eq
  simp only [toNat_aluDec, BitVec.toNat_sub]
  have := v.isLt
  simp
  omega

@[simp] theorem zeroTest_iff (v : Byte) : zeroTest v = true ↔ v = 0 := by
  simp [zeroTest]

theorem nestDepth_own {own partner : Byte} (d : Nat) : nestDepth own partner own d = d + 1 := by
  simp [nestDepth]

theorem nestDepth_partner {own partner : Byte} (h : partner ≠ own) (d : Nat) :
    nestDepth own partner partner d = d - 1 := by
  simp [nestDepth, h]

theorem nestDepth_other {own partner b : Byte} (h : b ≠ own) (h' : b ≠ partner) (d : Nat) :
    nestDepth own partner b d = d := by
  simp [nestDepth, h, h']

/-! ### The guard of the current cell -/

/-- The guard answers a next state exactly when the current cell exists and what it guards does. -/
theorem State.onTape_next {s t : State} {r : Result} :
    s.onTape r = .next t ↔ s.dp < s.cfg.tapeSize ∧ r = .next t := by
  unfold State.onTape
  split <;> simp_all

theorem State.onTape_of_lt {s : State} (h : s.dp < s.cfg.tapeSize) (r : Result) : s.onTape r = r := if_pos h

theorem State.onTape_of_ge {s : State} (h : s.cfg.tapeSize ≤ s.dp) (r : Result) :
    s.onTape r = .fault .tapeAddress := if_neg (by omega)

/-! ### The answer of a step -/

theorem State.answer_step (s : State) (r : StepResult) :
    s.answer .step r = { s with busy := none, responses := s.responses ++ [.step r] } := by
  cases r <;> rfl

theorem State.answer_run_cont (s : State) : s.answer .run .cont = { s with busy := none } := rfl

theorem State.answer_run_end (s : State) {r : StepResult} (h : r ≠ .cont) :
    s.answer .run r =
      { s with busy := none, runs := s.runs - 1, responses := s.responses ++ [.run r] } := by
  cases r <;> simp_all [State.answer]

@[simp] theorem State.answer_arch (s : State) (who : Issuer) (r : StepResult) : (s.answer who r).arch = s.arch := by
  cases who <;> cases r <;> rfl

/-- What `settle` can do: keep the step in progress, or end it with Error or Continue. -/
theorem State.settle_cases (s : State) (who : Issuer) :
    (s.port ≠ .idle ∧ s.settle who = s.keepWaiting who) ∨
    (s.port = .idle ∧ s.err = true ∧ s.settle who = s.answer who .error) ∨
    (s.port = .idle ∧ s.err = false ∧ s.settle who = s.answer who .cont) := by
  unfold State.settle
  cases s.port <;> cases s.err <;> simp

/-! ### LOAD -/

/-- LOAD fails and only answers, or replaces the program and answers. -/
theorem State.load_cases (s : State) (q : List Byte) :
    (s.cfg.progCapacity < q.length ∧ s.load q = s.respond .loadFailure) ∨
    (q.length ≤ s.cfg.progCapacity ∧ s.load q = (s.replaceProgram q).respond .loadOK) := by
  unfold State.load
  split
  · exact .inl ⟨‹_›, rfl⟩
  · exact .inr ⟨by omega, rfl⟩

end Sys2Proof.Machine
end

