-- ==== Sys2Proof/Laws/Exec.lean ====
section
/-! SUPPORT. What an instruction, the Stepper and a machine step can do, said once: one inversion lemma each. -/

namespace Sys2Proof.Machine

/-- Everything an instruction that answers a next state can do. -/
theorem exec_next_cases {i : Instr} {s t : State} (h : exec i s = .next t) :
    (i = .left ∧ t = (s.setDp (ptrDec s.cfg.tapeSize s.dp)).advance) ∨
    (i = .right ∧ t = (s.setDp (ptrInc s.cfg.tapeSize s.dp)).advance) ∨
    (i = .inc ∧ s.dp < s.cfg.tapeSize ∧ t = (s.setCell (aluInc s.cell)).advance) ∨
    (i = .dec ∧ s.dp < s.cfg.tapeSize ∧ t = (s.setCell (aluDec s.cell)).advance) ∨
    (i = .out ∧ s.dp < s.cfg.tapeSize ∧ s.taking = true ∧ t = (s.handOver s.cell).advance) ∨
    (i = .out ∧ s.dp < s.cfg.tapeSize ∧ s.taking = false ∧ t = s.waitOffering s.cell) ∨
    (i = .inp ∧ s.input = [] ∧ t = s.waitAwaiting) ∨
    (i = .inp ∧ s.dp < s.cfg.tapeSize ∧ ∃ x rest, s.input = x :: rest ∧
      t = ((s.takeInput rest).setCell (x.value s.cfg.eofByte)).advance) ∨
    (i = .jz ∧ s.dp < s.cfg.tapeSize ∧ s.cell = 0 ∧ t = s.branch (s.scanForward s.ip)) ∨
    (i = .jz ∧ s.dp < s.cfg.tapeSize ∧ s.cell ≠ 0 ∧ t = s.advance) ∨
    (i = .jnz ∧ s.dp < s.cfg.tapeSize ∧ s.cell = 0 ∧ t = s.advance) ∨
    (i = .jnz ∧ s.dp < s.cfg.tapeSize ∧ s.cell ≠ 0 ∧ s.ip ≤ s.psize ∧ t = s.branch (s.scanBackward s.ip)) ∨
    (∃ b, i = .nop b ∧ t = s.advance) := by
  cases i with
  | left => simp_all [exec, execLeft]
  | right => simp_all [exec, execRight]
  | inc =>
    obtain ⟨hd, h⟩ := State.onTape_next.mp h
    simp_all
  | dec =>
    obtain ⟨hd, h⟩ := State.onTape_next.mp h
    simp_all
  | out =>
    obtain ⟨hd, h⟩ := State.onTape_next.mp h
    split at h <;> simp_all
  | inp =>
    simp only [exec, execInp] at h
    split at h
    · simp_all
    · rename_i x rest hin
      obtain ⟨hd, h⟩ := State.onTape_next.mp h
      simp_all
  | jz =>
    obtain ⟨hd, h⟩ := State.onTape_next.mp h
    by_cases hz : s.cell = 0 <;> simp_all [zeroTest]
  | jnz =>
    obtain ⟨hd, h⟩ := State.onTape_next.mp h
    by_cases hz : s.cell = 0
    · simp_all [zeroTest]
    · by_cases hp : s.psize < s.ip
      · simp_all [zeroTest]
      · simp_all [zeroTest]
  | nop b => simp_all [exec, execNop]

/-- A branch jumps and advances, or raises. -/
theorem State.branch_cases (s : State) (o : Option Nat) :
    (∃ m, o = some m ∧ s.branch o = (s.jumpTo m).advance) ∨ (o = none ∧ s.branch o = s.raiseUnmatched) := by
  cases o <;> simp [State.branch]

/-- No instruction is refused. -/
theorem exec_not_refused (i : Instr) (s : State) (r : Refusal) : exec i s ≠ .refused r := by
  cases i with
  | left => simp [exec, execLeft]
  | right => simp [exec, execRight]
  | inc => simp only [exec, execInc, State.onTape]; split <;> simp
  | dec => simp only [exec, execDec, State.onTape]; split <;> simp
  | out => simp only [exec, execOut, State.onTape]; split <;> (try split) <;> simp
  | inp => simp only [exec, execInp, State.onTape]; split <;> (try split) <;> simp
  | jz => simp only [exec, execJz, State.onTape]; split <;> (try split) <;> simp
  | jnz => simp only [exec, execJnz, State.onTape]; split <;> (try split) <;> (try split) <;> simp
  | nop b => simp [exec, execNop]

/-- An instruction completes whenever the current cell exists and `ip` is not past the program. -/
theorem exec_completes (i : Instr) {s : State} (hd : s.dp < s.cfg.tapeSize) (hp : s.ip ≤ s.psize) :
    ∃ t, exec i s = .next t := by
  cases i with
  | left => exact ⟨_, rfl⟩
  | right => exact ⟨_, rfl⟩
  | inc => exact ⟨_, State.onTape_of_lt hd _⟩
  | dec => exact ⟨_, State.onTape_of_lt hd _⟩
  | out => simp only [exec, execOut, State.onTape_of_lt hd]; split <;> simp
  | inp => simp only [exec, execInp, State.onTape_of_lt hd]; split <;> simp
  | jz => simp only [exec, execJz, State.onTape_of_lt hd]; split <;> simp
  | jnz =>
    simp only [exec, execJnz, State.onTape_of_lt hd]
    split
    · simp
    · rw [if_neg (by omega)]; simp
  | nop b => exact ⟨_, rfl⟩

theorem settleResult_next {who : Issuer} {r : Result} {t : State} :
    settleResult who r = .next t ↔ ∃ u, r = .next u ∧ t = u.settle who := by
  cases r <;> simp [settleResult, eq_comm]

/-- Everything a step of the Stepper that answers a next state can do. -/
theorem stepper_next_cases {who : Issuer} {s t : State} (h : stepper who s = .next t) :
    (s.err = true ∧ t = s.answer who .error) ∨
    (s.err = false ∧ s.psize ≤ s.ip ∧ t = s.answer who .halt) ∨
    (s.err = false ∧ s.ip < s.psize ∧
      ∃ u, exec (decodeByte (s.fetch s.ip)) s = .next u ∧ t = u.settle who) := by
  unfold stepper at h
  split at h
  · rename_i he
    exact .inl ⟨he, by simpa using h.symm⟩
  · rename_i he
    split at h
    · rename_i hp
      exact .inr (.inl ⟨by simpa using he, hp, by simpa using h.symm⟩)
    · rename_i hp
      exact .inr (.inr ⟨by simpa using he, by omega, settleResult_next.mp h⟩)

/-- Everything the engine's move can do: resume the waiting step, take the oldest waiting command, rest, or run. -/
theorem engineMove_cases (s : State) :
    (∃ who, s.busy = some who ∧ engineMove s = stepper who s) ∨
    (∃ c rest, s.busy = none ∧ s.pending = c :: rest ∧ engineMove s = serve c (s.setPending rest)) ∨
    (s.busy = none ∧ s.pending = [] ∧ s.runs = 0 ∧ engineMove s = .next s) ∨
    (s.busy = none ∧ s.pending = [] ∧ 0 < s.runs ∧ engineMove s = stepper .run s) := by
  cases hb : s.busy with
  | some who => exact .inl ⟨who, rfl, by simp [engineMove, hb]⟩
  | none =>
    cases hp : s.pending with
    | cons c rest => exact .inr (.inl ⟨c, rest, rfl, rfl, by simp [engineMove, hb, hp]⟩)
    | nil =>
      cases hr : s.runs with
      | zero => exact .inr (.inr (.inl ⟨rfl, rfl, rfl, by simp [engineMove, hb, hp, hr]⟩))
      | succ n => exact .inr (.inr (.inr ⟨rfl, rfl, by omega, by simp [engineMove, hb, hp, hr]⟩))

/-- Everything a machine step can be: refused because no engine exists, the engine's move, or a host move. -/
theorem step_cases (s : State) :
    (s.cfg.tapeSize = 0 ∧ step s = .refused .tapeSizeZero) ∨
    (0 < s.cfg.tapeSize ∧ s.moves = [] ∧ step s = engineMove s) ∨
    (0 < s.cfg.tapeSize ∧ ∃ rest, s.moves = .pause :: rest ∧ step s = engineMove (s.setMoves rest)) ∨
    (0 < s.cfg.tapeSize ∧ ∃ m rest, m ≠ .pause ∧ s.moves = m :: rest ∧
      step s = .next (m.apply (s.setMoves rest))) := by
  unfold step machineStep Config.wf
  by_cases h : 0 < s.cfg.tapeSize
  · right
    simp only [h, decide_true, if_true, true_and]
    unfold turn
    cases hm : s.moves with
    | nil => simp
    | cons m rest => cases m <;> simp
  · left
    refine ⟨by omega, ?_⟩
    simp [h]

/-- The three ways in which a machine step becomes a step of the Stepper, from state `u`, for command `who`. -/
def State.StartsStep (s u : State) (who : Issuer) : Prop :=
  (s.busy = some who ∧ u = s) ∨
  (s.busy = none ∧ who = .step ∧ ∃ rest, s.pending = .step :: rest ∧ u = s.setPending rest) ∨
  (s.busy = none ∧ who = .run ∧ s.pending = [] ∧ 0 < s.runs ∧ u = s)

/-- Everything an engine move that answers a next state can have done. -/
theorem engineMove_next_cases {s t : State} (h : engineMove s = .next t) :
    (∃ who u, s.StartsStep u who ∧ stepper who u = .next t) ∨
    (s.busy = none ∧ ∃ q rest, s.pending = .load q :: rest ∧ t = (s.setPending rest).load q) ∨
    (s.busy = none ∧ ∃ rest, s.pending = .run :: rest ∧ t = (s.setPending rest).startRun) ∨
    (s.busy = none ∧ ∃ rest, s.pending = .observe :: rest ∧
      t = (s.setPending rest).respond (.observed (s.setPending rest).observation)) ∨
    (s.busy = none ∧ s.pending = [] ∧ s.runs = 0 ∧ t = s) := by
  rcases engineMove_cases s with ⟨w, hb, e⟩ | ⟨c, rest, hb, hp, e⟩ | ⟨hb, hp, hr, e⟩ | ⟨hb, hp, hr, e⟩ <;>
    rw [h] at e
  · exact .inl ⟨w, s, .inl ⟨hb, rfl⟩, e.symm⟩
  · cases c with
    | load q => exact .inr (.inl ⟨hb, q, rest, hp, by simpa [serve] using e⟩)
    | step => exact .inl ⟨.step, _, .inr (.inl ⟨hb, rfl, rest, hp, rfl⟩), e.symm⟩
    | run => exact .inr (.inr (.inl ⟨hb, rest, hp, by simpa [serve] using e⟩))
    | observe => exact .inr (.inr (.inr (.inl ⟨hb, rest, hp, by simpa [serve] using e⟩)))
  · exact .inr (.inr (.inr (.inr ⟨hb, hp, hr, by simpa using e⟩)))
  · exact .inl ⟨.run, s, .inr (.inr ⟨hb, rfl, hp, hr, rfl⟩), e.symm⟩

/-- Everything a machine step that answers a next state can have done: a host move, or an engine move. -/
theorem step_next_cases {s t : State} (h : step s = .next t) :
    0 < s.cfg.tapeSize ∧
    ((∃ m rest, m ≠ .pause ∧ s.moves = m :: rest ∧ t = m.apply (s.setMoves rest)) ∨
     (∃ ms, (s.moves = [] ∧ ms = [] ∨ s.moves = .pause :: ms) ∧ engineMove (s.setMoves ms) = .next t)) := by
  rcases step_cases s with ⟨_, e⟩ | ⟨h0, hm, e⟩ | ⟨h0, rest, hm, e⟩ | ⟨h0, m, rest, hne, hm, e⟩
  · rw [e] at h
    simp at h
  · refine ⟨h0, .inr ⟨[], .inl ⟨hm, rfl⟩, ?_⟩⟩
    rw [← h, e, State.setMoves, ← hm]
  · exact ⟨h0, .inr ⟨rest, .inr hm, by rw [← h, e]⟩⟩
  · refine ⟨h0, .inl ⟨m, rest, hne, hm, ?_⟩⟩
    rw [e] at h
    simpa using h.symm

/-- A step in progress is what the engine moves on with. -/
theorem engineMove_of_busy {s : State} {who : Issuer} (hb : s.busy = some who) : engineMove s = stepper who s := by
  simp only [engineMove, hb]

/-- Between steps the oldest waiting command is taken. -/
theorem engineMove_of_pending {s : State} {c : Command} {rest : List Command} (hb : s.busy = none)
    (hp : s.pending = c :: rest) : engineMove s = serve c (s.setPending rest) := by
  simp only [engineMove, hb, hp]

/-- Between steps, with no command waiting, a RUN takes its next step. -/
theorem engineMove_of_run {s : State} (hb : s.busy = none) (hp : s.pending = []) (hr : 0 < s.runs) :
    engineMove s = stepper .run s := by
  obtain ⟨n, hn⟩ : ∃ n, s.runs = n + 1 := ⟨s.runs - 1, by omega⟩
  simp only [engineMove, hb, hp, hn]

/-- A machine step whose next host move is none or a pause is the engine's move. -/
theorem step_eq_engineMove_of_pause {s : State} {ms : List HostMove} (h0 : 0 < s.cfg.tapeSize)
    (hm : (s.moves = [] ∧ ms = []) ∨ s.moves = .pause :: ms) : step s = engineMove (s.setMoves ms) := by
  rcases step_cases s with ⟨h, _⟩ | ⟨_, h, e⟩ | ⟨_, r, h, e⟩ | ⟨_, m, r, hne, h, _⟩
  · omega
  · obtain ⟨_, rfl⟩ : s.moves = [] ∧ ms = [] := by simpa [h] using hm
    rw [e, State.setMoves, ← h]
  · obtain rfl : r = ms := by simpa [h] using hm
    exact e
  · have : m = .pause ∧ r = ms := by simpa [h] using hm
    exact absurd this.1 hne

/-- A machine step whose next host move is no pause is that move. -/
theorem step_eq_hostMove {s : State} {m : HostMove} {rest : List HostMove} (h0 : 0 < s.cfg.tapeSize)
    (hne : m ≠ .pause) (hm : s.moves = m :: rest) : step s = .next (m.apply (s.setMoves rest)) := by
  rcases step_cases s with ⟨h, _⟩ | ⟨_, h, _⟩ | ⟨_, r, h, _⟩ | ⟨_, m', r, _, h, e⟩
  · omega
  · simp [hm] at h
  · exact absurd (by simpa [hm] using (List.cons.inj (hm.symm.trans h)).1) hne
  · obtain ⟨rfl, rfl⟩ := List.cons.inj (hm.symm.trans h)
    exact e

/-- With no host move to come, a machine step is the engine's move. -/
theorem step_eq_engineMove {s : State} (h0 : 0 < s.cfg.tapeSize) (hm : s.moves = []) : step s = engineMove s := by
  rcases step_cases s with ⟨h, _⟩ | ⟨_, _, e⟩ | ⟨_, _, h, _⟩ | ⟨_, _, _, _, h, _⟩
  · omega
  · exact e
  · simp [hm] at h
  · simp [hm] at h

end Sys2Proof.Machine
end

