-- ==== Sys2Proof/Laws/PerInstr.lean ====
section
/-! SUPPORT. Statements for all instructions, made per instruction.

RoundTrip: decoding the byte of a well-formed instruction gives the instruction back (`30_encoding.md` R61, R62). -/

namespace Sys2Proof.Laws.RoundTrip

/-- Decoding the byte of a well-formed instruction gives it back. -/
def Statement (i : Instr) : Prop := i.wf = true → decodeByte (encode i) = i

theorem left : Statement .left := fun _ => by decide
theorem right : Statement .right := fun _ => by decide
theorem inc : Statement .inc := fun _ => by decide
theorem dec : Statement .dec := fun _ => by decide
theorem out : Statement .out := fun _ => by decide
theorem inp : Statement .inp := fun _ => by decide
theorem jz : Statement .jz := fun _ => by decide
theorem jnz : Statement .jnz := fun _ => by decide
theorem nop (b : Byte) : Statement (.nop b) := fun h => by
  simp [Instr.wf, opcodeBytes] at h
  simp [encode, decodeByte, h]

end Sys2Proof.Laws.RoundTrip
end

