-- ==== Sys2Proof/Tests/Slice0.lean ====
section
/-! SUPPORT. The model's own tests. Expected values come from spec/95_test_vectors.md (its vector is named in the comment)
or from the rule named; each test is one step on a small state. Below them stand the witnesses: concrete states and
operands that meet the hypotheses of each obligation. -/

namespace Sys2Proof.Tests

open Sys2Proof Sys2Proof.Machine

/-! ### Helpers -/

/-- A configuration of the vectors: `TAPE_SIZE` cells, `EOF_BYTE` 0xFF, and a small `PROG_CAPACITY`. -/
def smallConfig (tapeSize : Nat) : Config := ⟨tapeSize, 8, 0xFF⟩

/-- RESET, then LOAD of `q`, then a RUN in progress, with the given tape, `dp` and `ip`. -/
def running (tapeSize : Nat) (q : List Byte) (tape : Memory) (dp ip : Nat) : State :=
  { (State.resetWith (smallConfig tapeSize)).replaceProgram q with tape := tape, dp := dp, ip := ip, runs := 1 }

/-- The next state of an outcome, if it is one. -/
def nextOf : Result → Option State
  | .next s => some s
  | .fault _ => none
  | .refused _ => none

/-- One field of the state after one machine step. -/
def after {α : Type} (s : State) (f : State → α) : Option α := (nextOf (step s)).map f

/-! ### WellFormed: an ill-formed term for each check -/

theorem test_wf_refuses_nop_of_opcode_byte : (Instr.nop 0x2B).wf = false := by decide
theorem test_wf_accepts_nop_of_other_byte : (Instr.nop 0xBC).wf = true := by decide
theorem test_config_wf_refuses_zero_tape : (smallConfig 0).wf = false := by decide

/-! ### Decoding: each row's byte, bit by bit (R61, R62) -/

theorem test_decode_left : decodeByte 0b00111100 = .left := by decide
theorem test_decode_right : decodeByte 0b00111110 = .right := by decide
theorem test_decode_inc : decodeByte 0b00101011 = .inc := by decide
theorem test_decode_dec : decodeByte 0b00101101 = .dec := by decide
theorem test_decode_out : decodeByte 0b00101110 = .out := by decide
theorem test_decode_inp : decodeByte 0b00101100 = .inp := by decide
theorem test_decode_jz : decodeByte 0b01011011 = .jz := by decide
theorem test_decode_jnz : decodeByte 0b01011101 = .jnz := by decide
/-- V-SEQ-5: 0xBC is NOP, not LEFT. -/
theorem test_decode_nop : decodeByte 0b10111100 = .nop 0xBC := by decide
theorem test_decode_rejects_no_byte : decode [] = .error .noByte := rfl
theorem test_decode_table_word : decodeTableWord 8 0x3C = some .left := by decide
theorem test_decode_table_word_too_long : decodeTableWord 16 0x3C = none := by decide

/-! ### Memory -/

theorem test_write_keeps_order : Memory.write [(1, 5), (4, 6)] 2 7 = [(1, 5), (2, 7), (4, 6)] := by decide
theorem test_write_of_zero_unlists : Memory.write [(1, 5), (4, 6)] 4 0 = [(1, 5)] := by decide

/-! ### One step per instruction -/

/-- V-TAP-1. -/
theorem test_left_wraps : after (running 4 [0x3C] [] 0 0) (fun t => (t.dp, t.ip)) = some (3, 1) := by decide
/-- V-TAP-4. -/
theorem test_right_wraps : after (running 4 [0x3E] [] 3 0) (fun t => (t.dp, t.ip)) = some (0, 1) := by decide
/-- V-TAP-9. -/
theorem test_inc_wraps : after (running 4 [0x2B] [(0, 0xFF)] 0 0) (fun t => (t.tape, t.ip)) = some ([], 1) := by decide
/-- V-TAP-13: only the current cell changes. -/
theorem test_inc_one_cell :
    after (running 4 [0x2B] [(0, 5), (1, 6), (2, 7)] 2 0) State.tape = some [(0, 5), (1, 6), (2, 8)] := by decide
/-- V-TAP-10. -/
theorem test_dec_wraps : after (running 4 [0x2D] [] 0 0) State.tape = some [(0, 0xFF)] := by decide
/-- V-TAP-11. -/
theorem test_dec_unsigned : after (running 4 [0x2D] [(0, 0x80)] 0 0) State.tape = some [(0, 0x7F)] := by decide
/-- V-IO-1: 0x00 is emitted like any other byte. -/
theorem test_out_zero : after (running 4 [0x2E] [] 0 0) (fun t => (t.output, t.ip)) = some ([0x00], 1) := by decide
/-- V-IO-7: the host does not take the byte, `ip` stays. -/
theorem test_out_waits :
    after { running 4 [0x2E] [(0, 0x41)] 0 0 with taking := false } (fun t => (t.port, t.ip, t.output)) =
      some (.offering 0x41, 0, []) := by decide
/-- V-IO-5, with `EOF_BYTE` 0xFF: end-of-input overwrites the cell. -/
theorem test_in_eof :
    after { running 4 [0x2C] [(0, 1)] 0 0 with input := [.eof] } (fun t => (t.tape, t.ip)) =
      some ([(0, 0xFF)], 1) := by decide
/-- V-IO-8: no item is offered, the cell and `ip` stay. -/
theorem test_in_waits :
    after (running 4 [0x2C] [] 0 0) (fun t => (t.port, t.ip, t.tape)) = some (.awaiting, 0, []) := by decide
/-- V-LOOP-1: `ScanForward(0) = Some(2)`, `ip = 3`. -/
theorem test_jz_jumps : after (running 4 [0x5B, 0x2D, 0x5D, 0x2B] [] 0 0) State.ip = some 3 := by decide
/-- V-LOOP-5: the inner pair does not match the outer bracket. -/
theorem test_jz_raises :
    after (running 4 [0x5B, 0x5B, 0x5D] [] 0 0) (fun t => (t.err, t.ip, t.status)) = some (true, 0, 0b10) := by decide
/-- P4, step with the outer `]` at 14 matching 2, on the program's inner shape: nesting is counted backward. -/
theorem test_jnz_jumps :
    after (running 4 [0x5B, 0x5B, 0x2D, 0x5D, 0x5D] [(0, 1)] 0 4) State.ip = some 1 := by decide
/-- V-LOOP-8: the scan would move before index 0. -/
theorem test_jnz_raises :
    after (running 4 [0x2B, 0x5D] [(0, 1)] 0 1) (fun t => (t.err, t.ip, t.tape)) = some (true, 1, [(0, 1)]) := by decide
/-- V-SEQ-4. -/
theorem test_nop_advances : after (running 4 [0x00] [(0, 9)] 0 0) (fun t => (t.ip, t.tape)) = some (1, [(0, 9)]) := by
  decide

/-! ### The Driver and the host -/

/-- V-SEQ-3: the last instruction's STEP returns Continue and STATUS reads HALTED. -/
theorem test_step_continue_then_halted :
    after { running 4 [0x2B] [] 0 0 with runs := 0, pending := [.step] } (fun t => (t.responses, t.status)) =
      some ([.step .cont], 0b01) := by decide
/-- V-SEQ-2: a STEP without a LOAD returns Halt. -/
theorem test_step_before_load_halts :
    after { State.resetWith (smallConfig 4) with pending := [.step] } State.responses = some [.step .halt] := by decide
/-- V-EXC-1: a step in the error state returns Error. -/
theorem test_step_after_error :
    after { running 4 [0x5B] [] 0 0 with err := true, runs := 0, pending := [.step] } (fun t => (t.responses, t.ip)) =
      some ([.step .error], 0) := by decide
/-- V-EXC-2: LOAD clears the latch and keeps the tape. -/
theorem test_load_clears_error :
    after { running 4 [0x5B] [(1, 6)] 1 0 with err := true, runs := 0, pending := [.load [0x2B]] }
      (fun t => (t.err, t.dp, t.psize, t.tape)) = some (false, 0, 1, [(1, 6)]) := by decide
/-- V-EXC-3: one byte more than `PROG_CAPACITY`. -/
theorem test_load_too_long :
    after { running 4 [0x2B] [] 1 1 with runs := 0, pending := [.load (List.replicate 9 0)] }
      (fun t => (t.responses, t.psize, t.ip)) = some ([.loadFailure], 1, 1) := by decide
/-- V-IO-9: RESET abandons a step that waits for input. -/
theorem test_reset_abandons_wait :
    after { running 4 [0x2C] [(0, 3)] 0 0 with port := .awaiting, busy := some .run, moves := [.reset] }
      (fun t => (t.port, t.busy, t.runs, t.tape)) = some (.idle, none, 0, []) := by decide
/-- R29: observe answers with the reset values. -/
theorem test_observe :
    after { State.resetWith (smallConfig 2) with pending := [.observe] } State.responses =
      some [.observed ⟨0b01, 0, 0, 0, 2, 8, 0xFF, [0, 0], []⟩] := by decide
/-- V-EXC-6: `TAPE_SIZE = 0` is refused. -/
theorem test_zero_tape_refused : step (State.resetWith (smallConfig 0)) = .refused .tapeSizeZero := rfl
/-- The loading aid runs the word as the first instruction after reset. -/
theorem test_fetch_word_runs : after (State.reset.withFetchWord 8 0x3E) State.dp = some 1 := by decide
/-- The canonical form holds at reset. -/
theorem test_reset_memory_wf : State.reset.tape.wf ∧ State.reset.prog.wf := by decide

/-! ### Witnesses: states and operands that meet the hypotheses of the obligations -/

/-- A RUN about to execute `+` at address 0: consistent. -/
def atInc : State := running 4 [0x2B] [(3, 9)] 3 0

theorem atInc_consistent : atInc.Inv where
  tapeSize_pos := by decide
  tape_wf := by decide
  tape_below := by decide
  dp_lt := by decide
  prog_wf := by decide
  prog_below := by decide
  ip_le := by decide
  psize_le := by decide
  wait := rfl
  run_waits := by decide

/-- A step that waits with 0x41 on offer, for a RUN. -/
def offering : State :=
  { running 4 [0x2E] [(0, 0x41)] 0 0 with taking := false, port := .offering 0x41, busy := some .run }

theorem offering_consistent : offering.Inv where
  tapeSize_pos := by decide
  tape_wf := by decide
  tape_below := by decide
  dp_lt := by decide
  prog_wf := by decide
  prog_below := by decide
  ip_le := by decide
  psize_le := by decide
  wait := ⟨by decide, by decide, by decide, by decide, by decide⟩
  run_waits := by decide

/-- A step that waits for input, for a STEP. -/
def awaiting : State :=
  { running 4 [0x2C] [(0, 3)] 0 0 with port := .awaiting, busy := some .step, runs := 0 }

theorem awaiting_consistent : awaiting.Inv where
  tapeSize_pos := by decide
  tape_wf := by decide
  tape_below := by decide
  dp_lt := by decide
  prog_wf := by decide
  prog_below := by decide
  ip_le := by decide
  psize_le := by decide
  wait := ⟨by decide, by decide, by decide, by decide⟩
  run_waits := by decide

/-- An engine in the error state, at the unmatched `[` at address 0. -/
def errored : State := { running 4 [0x5B] [] 0 0 with err := true }

theorem errored_explained : errored.ErrorCause := fun _ => ⟨by decide, .inl ⟨by decide, by decide, by decide⟩⟩

/-- `[+]`, balanced. -/
def balancedLoop : State := running 4 [0x5B, 0x2B, 0x5D] [] 0 0

theorem balancedLoop_balanced : balancedLoop.Balanced := by
  unfold State.Balanced
  decide

theorem witness_LoadedProgramDecodesBack :
    (∀ i ∈ [Instr.jz, .nop 0x61, .jnz], i.wf = true) ∧ [Instr.jz, .nop 0x61, .jnz].length ≤ atInc.cfg.progCapacity := by
  decide
theorem witness_ResetIsTakenAtAnyTime :
    0 < awaiting.cfg.tapeSize ∧ ({ awaiting with moves := [.reset, .pause] } : State).moves = .reset :: [.pause] := by
  decide
theorem witness_OnlyZeroTapeSizeIsRefused :
    (State.resetWith (smallConfig 0)).cfg.tapeSize = 0 ∧ 0 < (State.resetWith (smallConfig 1)).cfg.tapeSize := by decide
theorem witness_ConfigurationIsFixed : (nextOf (step atInc)).isSome = true := by decide
theorem witness_ResetIsConsistent : 0 < (smallConfig 1).tapeSize := by decide
theorem witness_StepKeepsConsistency : atInc.Inv ∧ (nextOf (step atInc)).isSome = true :=
  ⟨atInc_consistent, by decide⟩
theorem witness_StepKeepsConsistency_waiting : offering.Inv ∧ (nextOf (step offering)).isSome = true :=
  ⟨offering_consistent, by decide⟩
theorem witness_StepKeepsErrorCause : errored.ErrorCause ∧ errored.err = true ∧ (nextOf (step errored)).isSome = true :=
  ⟨errored_explained, by decide, by decide⟩
theorem witness_ConsistentRunsNeverStop : atInc.Inv ∧ offering.Inv ∧ awaiting.Inv :=
  ⟨atInc_consistent, offering_consistent, awaiting_consistent⟩

/-- A LOAD of exactly `PROG_CAPACITY` bytes (V-EXC-4), and one byte more, waiting between steps. -/
def loading (n : Nat) : State := { errored with runs := 0, pending := [.load (List.replicate n 0x2B), .step] }

theorem witness_LoadReplacesProgram :
    0 < (loading 8).cfg.tapeSize ∧ (loading 8).moves = [] ∧ (loading 8).busy = none ∧
    (loading 8).pending = .load (List.replicate 8 0x2B) :: [.step] ∧
    (List.replicate 8 (0x2B : Byte)).length ≤ (loading 8).cfg.progCapacity := by decide
theorem witness_TooLongLoadChangesNothing :
    0 < (loading 9).cfg.tapeSize ∧ (loading 9).moves = [] ∧ (loading 9).busy = none ∧
    (loading 9).pending = .load (List.replicate 9 0x2B) :: [.step] ∧
    (loading 9).cfg.progCapacity < (List.replicate 9 (0x2B : Byte)).length := by decide
theorem witness_OnlyLoadAndResetChangeProgram :
    after (loading 8) (fun t => decide (t.prog ≠ (loading 8).prog)) = some true ∧
    after ((loading 8).setMoves [.pause]) (fun t => decide (t.prog ≠ (loading 8).prog)) = some true ∧
    after (errored.setMoves [.reset]) (fun t => decide (t.prog ≠ errored.prog)) = some true ∧
    (nextOf (exec .inc atInc)).isSome = true := by decide
theorem witness_PointerUnitIsCircular : 0 < 1 ∧ 0 < 4 ∧ 3 < 4 ∧ 3 = 4 - 1 := by decide
theorem witness_UnitsAreCyclic : 3 < 4 ∧ 0 < 3 ∧ 3 < 4 := by decide
theorem witness_LeftMovesPointer : atInc.dp < atInc.cfg.tapeSize := by decide
theorem witness_RightMovesPointer : atInc.dp < atInc.cfg.tapeSize ∧ atInc.dp + 1 = atInc.cfg.tapeSize := by decide
theorem witness_IncAddsOneToCell : atInc.dp < atInc.cfg.tapeSize ∧ atInc.tape.wf := by decide
theorem witness_DecSubtractsOneFromCell : atInc.dp < atInc.cfg.tapeSize ∧ atInc.tape.wf ∧ atInc.cell ≠ 0 := by decide
theorem witness_TapeAndPointerHaveFewWriters :
    (nextOf (exec .left atInc)).map (fun t => decide (t.dp ≠ atInc.dp)) = some true ∧
    (nextOf (exec .dec atInc)).map (fun t => decide (t.tape ≠ atInc.tape)) = some true := by decide
theorem witness_AbsentAddressStops :
    (running 4 [0x2C] [] 4 0).cfg.tapeSize ≤ (running 4 [0x2C] [] 4 0).dp ∧
    ({ running 4 [0x2C] [] 4 0 with input := [.eof] } : State).input ≠ [] := by decide
theorem witness_AbsentAddressStops_program :
    (running 4 [0x5D] [(0, 1)] 0 2).dp < 4 ∧ (running 4 [0x5D] [(0, 1)] 0 2).cell ≠ 0 ∧
    (running 4 [0x5D] [(0, 1)] 0 2).psize < (running 4 [0x5D] [(0, 1)] 0 2).ip := by decide
theorem witness_OutHandsCellToHost : atInc.dp < atInc.cfg.tapeSize ∧ atInc.taking = true := by decide
theorem witness_OutWaitsUntilTaken : offering.dp < offering.cfg.tapeSize ∧ offering.taking = false := by decide
theorem witness_InStoresItemInCell :
    awaiting.dp < awaiting.cfg.tapeSize ∧ awaiting.tape.wf ∧
    ({ awaiting with input := [.byte 0x41, .eof] } : State).input = .byte 0x41 :: [.eof] ∧
    ({ awaiting with input := [.eof] } : State).input = .eof :: [] := by decide
theorem witness_InWaitsForItem : awaiting.input = [] := by decide
theorem witness_UnservedWaitLastsForever_input :
    awaiting.Inv ∧ awaiting.moves = [] ∧ awaiting.port = .awaiting ∧ awaiting.input = [] :=
  ⟨awaiting_consistent, by decide, by decide, by decide⟩
theorem witness_UnservedWaitLastsForever_output :
    offering.Inv ∧ offering.moves = [] ∧ offering.port = .offering 0x41 ∧ offering.taking = false :=
  ⟨offering_consistent, by decide, by decide, by decide⟩
theorem witness_ServedWaitCompletes_output :
    (offering.setTaking true).Inv ∧ (offering.setTaking true).moves = [] ∧
    (offering.setTaking true).port = .offering 0x41 ∧ (offering.setTaking true).taking = true :=
  ⟨⟨by decide, by decide, by decide, by decide, by decide, by decide, by decide, by decide,
    ⟨by decide, by decide, by decide, by decide, by decide⟩, by decide⟩, by decide, by decide, by decide⟩
theorem witness_ServedWaitCompletes_input :
    (awaiting.setInput [.eof]).Inv ∧ (awaiting.setInput [.eof]).moves = [] ∧
    (awaiting.setInput [.eof]).port = .awaiting ∧ (awaiting.setInput [.eof]).input = .eof :: [] :=
  ⟨⟨by decide, by decide, by decide, by decide, by decide, by decide, by decide, by decide,
    ⟨by decide, by decide, by decide, by decide⟩, by decide⟩, by decide, by decide, by decide⟩
theorem witness_PortsKeepProgramOrder :
    after (offering.setTaking true) State.output = some [0x41] ∧
    after (awaiting.setInput [.eof]) State.input = some [] ∧
    after (awaiting.setMoves [.offer .eof]) State.input = some [.eof] := by decide
theorem witness_JzBranchesOnZero :
    balancedLoop.dp < balancedLoop.cfg.tapeSize ∧ balancedLoop.tape.read balancedLoop.dp = 0 ∧
    balancedLoop.scanForward balancedLoop.ip = some 2 ∧
    errored.dp < errored.cfg.tapeSize ∧ errored.tape.read errored.dp = 0 ∧ errored.scanForward errored.ip = none ∧
    atInc.dp < atInc.cfg.tapeSize ∧ atInc.tape.read atInc.dp ≠ 0 := by decide
/-- The `]` at the last address of `[+]`, and a `]` alone, with a nonzero cell. -/
def atJnz (q : List Byte) (ip : Nat) : State := running 4 q [(0, 1)] 0 ip
theorem witness_JnzBranchesOnNonzero :
    (atJnz [0x5B, 0x2B, 0x5D] 2).dp < 4 ∧ (atJnz [0x5B, 0x2B, 0x5D] 2).ip ≤ (atJnz [0x5B, 0x2B, 0x5D] 2).psize ∧
    (atJnz [0x5B, 0x2B, 0x5D] 2).tape.read 0 ≠ 0 ∧ (atJnz [0x5B, 0x2B, 0x5D] 2).scanBackward 2 = some 0 ∧
    (atJnz [0x5D] 0).tape.read 0 ≠ 0 ∧ (atJnz [0x5D] 0).scanBackward 0 = none ∧
    balancedLoop.tape.read balancedLoop.dp = 0 := by decide
theorem witness_ForwardScanFindsFirstClosing :
    balancedLoop.scanForward 0 = some 2 ∧ balancedLoop.nesting 3 = balancedLoop.nesting 1 - 1 := by decide
theorem witness_BackwardScanFindsLastOpening :
    balancedLoop.scanBackward 2 = some 0 ∧ balancedLoop.nesting 0 = balancedLoop.nesting 2 - 1 := by decide
theorem witness_ScansAreInverse :
    0 < balancedLoop.psize ∧ 2 < balancedLoop.psize ∧ balancedLoop.fetch 0 = opJZ ∧
    balancedLoop.scanForward 0 = some 2 ∧ balancedLoop.fetch 2 = opJNZ ∧ balancedLoop.scanBackward 2 = some 0 := by decide
theorem witness_BalancedProgramNeverRaises :
    balancedLoop.Balanced ∧ balancedLoop.err = false ∧ (nextOf (step balancedLoop)).isSome = true :=
  ⟨balancedLoop_balanced, by decide, by decide⟩
theorem witness_OnlyUnmatchedBracketsRaise :
    (nextOf (exec .jz (running 4 [0x5B] [] 0 0))).map State.err = some true ∧
    (nextOf (exec .jnz (atJnz [0x5D] 0))).map State.err = some true ∧ (atJnz [0x5D] 0).err = false := by decide
theorem witness_LatchHoldsUntilResetOrLoad :
    (loading 8).err = true ∧ after (loading 8) State.err = some false ∧
    after ((loading 8).setMoves [.pause]) State.err = some false ∧
    after (errored.setMoves [.reset]) State.err = some false := by decide
theorem witness_StepRunsDecodedInstruction :
    0 < atInc.cfg.tapeSize ∧ atInc.moves = [] ∧ atInc.err = false ∧ atInc.ip < atInc.psize ∧ atInc.busy = none ∧
    atInc.pending = [] ∧ 0 < atInc.runs ∧ (atInc.setPending [.step]).pending = .step :: [] ∧
    (atInc.setMoves [.pause]).moves = .pause :: [] ∧ awaiting.busy = some .step ∧ awaiting.ip < awaiting.psize := by decide
theorem witness_StepEndsWithItsResult :
    offering.port ≠ .idle ∧ errored.port = .idle ∧ errored.err = true ∧ atInc.port = .idle ∧ atInc.err = false := by decide
theorem witness_LatchedStepAnswersError :
    errored.err = true ∧ 0 < errored.cfg.tapeSize ∧ errored.moves = [] ∧ errored.busy = none ∧ errored.pending = [] ∧
    0 < errored.runs ∧ (errored.setMoves [.pause]).moves = .pause :: [] ∧
    (errored.setPending [.step]).pending = .step :: [] ∧ (errored.setPending [.run]).pending = [.run] ∧
    (errored.keepWaiting .step).busy = some .step ∧ (errored.keepWaiting .run).busy = some .run := by decide
/-- `+` after it has halted (V-SEQ-9), a RUN in progress. -/
def halted : State := running 4 [0x2B] [] 0 1
theorem witness_ExhaustedStepAnswersHalt :
    halted.err = false ∧ halted.psize ≤ halted.ip ∧ State.reset.psize ≤ State.reset.ip ∧ 0 < halted.cfg.tapeSize ∧
    halted.moves = [] ∧ halted.busy = none ∧ halted.pending = [] ∧ 0 < halted.runs ∧
    (halted.setMoves [.pause]).moves = .pause :: [] ∧ (halted.setPending [.step]).pending = .step :: [] ∧
    (halted.setPending [.run]).pending = [.run] ∧ (halted.keepWaiting .step).busy = some .step ∧
    (halted.keepWaiting .run).busy = some .run := by decide
theorem witness_LastInstructionContinues :
    atInc.err = false ∧ atInc.ip < atInc.psize ∧ atInc.moves = [] ∧ atInc.busy = none ∧ atInc.pending = [] ∧
    0 < atInc.runs ∧ (nextOf (exec (decodeByte (atInc.fetch atInc.ip)) atInc)).map (fun u => (u.port, u.err, u.ip, u.psize)) =
      some (.idle, false, 1, 1) := by decide
theorem witness_LastInstructionContinues_steps :
    (atInc.setPending [.step, .step]).pending = .step :: .step :: [] ∧
    (nextOf (exec (decodeByte (atInc.fetch atInc.ip)) { atInc with pending := [.step] })).map
      (fun u => (u.port, u.err, u.ip, u.psize)) = some (.idle, false, 1, 1) := by decide
theorem witness_FinalStatesAreStable :
    errored.status ≠ 0b00 ∧ State.reset.status ≠ 0b00 ∧
    (nextOf (stepper .step errored)).map State.responses = some (errored.responses ++ [.step .error]) := by decide
theorem witness_FinalStatesAreStable_step :
    halted.status ≠ 0b00 ∧ halted.moves = [] ∧ (halted.setMoves [.pause]).moves.head? = some .pause ∧
    halted.pending.head? = none ∧ (nextOf (step halted)).isSome = true ∧
    (nextOf (step (halted.setMoves [.pause]))).isSome = true := by decide
theorem witness_RunEndsInHaltOrError :
    (running 4 [] [] 0 0).Inv ∧ after (running 4 [] [] 0 0) State.responses = some [.run .halt] ∧
    after errored State.responses = some [.run .error] :=
  ⟨⟨by decide, by decide, by decide, by decide, by decide, by decide, by decide, by decide, rfl, by decide⟩,
    by decide, by decide⟩
theorem witness_RunRepeatsStep :
    atInc.moves = [] ∧ atInc.busy = none ∧
    (nextOf (step { atInc with pending := [.step], runs := 0 })).isSome = true := by decide
theorem witness_RunCommandStartsDriver :
    0 < atInc.cfg.tapeSize ∧ atInc.moves = [] ∧ atInc.busy = none ∧
    (atInc.setPending [.run]).pending = .run :: [] := by decide
theorem witness_CommandsWaitDuringStep :
    offering.busy = some .run ∧ offering.moves = [] ∧ (nextOf (step offering)).isSome = true ∧
    (offering.setMoves [.pause]).moves = .pause :: [] ∧
    (offering.setMoves [.command .observe]).moves = .command .observe :: [] ∧ 0 < offering.cfg.tapeSize := by decide
theorem witness_HostWritesEngineOnlyByReset :
    HostMove.offer .eof ≠ .reset ∧ 0 < awaiting.cfg.tapeSize ∧
    (awaiting.setMoves [.offer .eof]).moves = .offer .eof :: [] ∧
    (awaiting.setMoves [.setTaking false, .pause]).moves = .setTaking false :: [.pause] ∧
    (awaiting.setMoves [.command .run]).moves = .command .run :: [] := by decide
theorem witness_ObserveAnswersEveryItem :
    0 < atInc.cfg.tapeSize ∧ atInc.moves = [] ∧ atInc.busy = none ∧
    (atInc.setPending [.observe]).pending = .observe :: [] ∧ 3 < atInc.cfg.tapeSize ∧ 0 < atInc.psize := by decide
theorem witness_IdleEngineIsQuiescent :
    0 < State.reset.cfg.tapeSize ∧ State.reset.moves = [] ∧ State.reset.busy = none ∧ State.reset.pending = [] ∧
    State.reset.runs = 0 := by decide
theorem witness_PastOutputDoesNotMatter : (nextOf (step (offering.setTaking true))).isSome = true := by decide
theorem witness_FetchWordRunsNext :
    0 < State.reset.cfg.tapeSize ∧ State.reset.prog.wf ∧ decodeTableWord 8 0x5D = some .jnz := by decide

end Sys2Proof.Tests
end

section
/-! SUPPORT. The configuration is read-only (`00_scope.md` R5 to R7, `10_state.md` R29): every layer of a machine step,
from the single instruction up to the host's and the engine's move, keeps `cfg`. -/

namespace Sys2Proof.Machine

@[simp] theorem State.branch_cfg (s : State) (o : Option Nat) : (s.branch o).cfg = s.cfg := by
  cases o <;> simp [State.branch]

@[simp] theorem HostMove.apply_cfg (m : HostMove) (s : State) : (m.apply s).cfg = s.cfg := by
  cases m <;> simp [HostMove.apply]

/-- A step runs from the same configuration: at most the command that starts it has left the queue. -/
theorem State.StartsStep.cfg_eq {s u : State} {who : Issuer} (h : s.StartsStep u who) : u.cfg = s.cfg := by
  obtain ⟨-, rfl⟩ | ⟨-, -, rest, -, rfl⟩ | ⟨-, -, -, -, rfl⟩ := h
  · rfl
  · simp
  · rfl

theorem exec_keeps_cfg {i : Instr} {s t : State} (h : exec i s = .next t) : t.cfg = s.cfg := by
  rcases exec_next_cases h with
    ⟨-, rfl⟩ | ⟨-, rfl⟩ | ⟨-, -, rfl⟩ | ⟨-, -, rfl⟩ | ⟨-, -, -, rfl⟩ | ⟨-, -, -, rfl⟩ | ⟨-, -, rfl⟩ |
    ⟨-, -, x, rest, -, rfl⟩ | ⟨-, -, -, rfl⟩ | ⟨-, -, -, rfl⟩ | ⟨-, -, -, rfl⟩ | ⟨-, -, -, -, rfl⟩ | ⟨b, -, rfl⟩ <;>
    simp

theorem stepper_keeps_cfg {who : Issuer} {s t : State} (h : stepper who s = .next t) : t.cfg = s.cfg := by
  obtain ⟨-, rfl⟩ | ⟨-, -, rfl⟩ | ⟨-, -, u, hu, rfl⟩ := stepper_next_cases h
  · simp
  · simp
  · simp [exec_keeps_cfg hu]

theorem engineMove_keeps_cfg {s t : State} (h : engineMove s = .next t) : t.cfg = s.cfg := by
  obtain ⟨who, u, hstart, hstep⟩ | ⟨-, q, rest, -, rfl⟩ | ⟨-, rest, -, rfl⟩ | ⟨-, rest, -, rfl⟩ | ⟨-, -, -, rfl⟩ :=
    engineMove_next_cases h
  case inl => exact (stepper_keeps_cfg hstep).trans hstart.cfg_eq
  all_goals simp

theorem step_keeps_cfg {s t : State} (h : step s = .next t) : t.cfg = s.cfg := by
  obtain ⟨-, ⟨m, rest, -, -, rfl⟩ | ⟨ms, -, hmove⟩⟩ := step_next_cases h
  · simp
  · simpa using engineMove_keeps_cfg hmove

/-- Settles O8: a machine step is a host move or an engine move, and neither writes the configuration. -/
theorem configurationIsFixed : Obligations.ConfigurationIsFixed :=
  fun _ _ h => step_keeps_cfg h

end Sys2Proof.Machine
end

section
/-! SUPPORT. Who writes `dp`, the tape, the program and the latch (`10_state.md` R21 to R26): one lemma per layer of a
machine step says which of these it can change, and the statements about their writers follow from it. -/

namespace Sys2Proof.Machine

/-! ### The pointer and the tape -/

@[simp] theorem State.branch_dp (s : State) (o : Option Nat) : (s.branch o).dp = s.dp := by
  cases o <;> simp [State.branch]

@[simp] theorem State.branch_tape (s : State) (o : Option Nat) : (s.branch o).tape = s.tape := by
  cases o <;> simp [State.branch]

/-- Of `dp` and the tape an instruction writes at most one: LEFT and RIGHT the pointer, INC, DEC and IN the current cell,
unless IN still waits for an item. -/
theorem exec_dp_tape_cases {i : Instr} {s t : State} (h : exec i s = .next t) :
    ((i = .left ∨ i = .right) ∧ t.tape = s.tape) ∨
    ((i = .inc ∨ i = .dec ∨ i = .inp) ∧ t.dp = s.dp ∧ ∃ v, t.tape = s.tape.write s.dp v) ∨
    (t.dp = s.dp ∧ t.tape = s.tape) := by
  rcases exec_next_cases h with
    ⟨hi, rfl⟩ | ⟨hi, rfl⟩ | ⟨hi, -, rfl⟩ | ⟨hi, -, rfl⟩ | ⟨-, -, -, rfl⟩ | ⟨-, -, -, rfl⟩ | ⟨-, -, rfl⟩ |
    ⟨hi, -, x, rest, -, rfl⟩ | ⟨-, -, -, rfl⟩ | ⟨-, -, -, rfl⟩ | ⟨-, -, -, rfl⟩ | ⟨-, -, -, -, rfl⟩ | ⟨b, -, rfl⟩
  · exact .inl ⟨.inl hi, rfl⟩
  · exact .inl ⟨.inr hi, rfl⟩
  · exact .inr (.inl ⟨.inl hi, rfl, _, rfl⟩)
  · exact .inr (.inl ⟨.inr (.inl hi), rfl, _, rfl⟩)
  -- IN that takes an item: the fourth of the cases left
  on_goal 4 => exact .inr (.inl ⟨.inr (.inr hi), rfl, _, rfl⟩)
  all_goals exact .inr (.inr ⟨by simp, by simp⟩)

/-- Settles O23: LEFT and RIGHT keep the tape, INC, DEC and IN write the current cell alone, the others keep both. -/
theorem tapeAndPointerHaveFewWriters : Obligations.TapeAndPointerHaveFewWriters := by
  intro i s t h
  obtain ⟨hi, htape⟩ | ⟨hi, hdp, v, htape⟩ | ⟨hdp, htape⟩ := exec_dp_tape_cases h
  · exact ⟨fun _ => hi, fun hne => absurd htape hne, fun _ _ => by rw [htape]⟩
  · exact ⟨fun hne => absurd hdp hne, fun _ => hi, fun _ ha => by rw [htape, Memory.read_write_other _ ha]⟩
  · exact ⟨fun hne => absurd hdp hne, fun hne => absurd htape hne, fun _ _ => by rw [htape]⟩

/-! ### The program and the latch -/

@[simp] theorem State.branch_prog (s : State) (o : Option Nat) : (s.branch o).prog = s.prog := by
  cases o <;> simp [State.branch]

@[simp] theorem State.branch_psize (s : State) (o : Option Nat) : (s.branch o).psize = s.psize := by
  cases o <;> simp [State.branch]

@[simp] theorem State.branch_err (s : State) (o : Option Nat) : (s.branch o).err = (s.err || o.isNone) := by
  cases o <;> simp [State.branch]

/-- From `s` to `t` the program store and `PSIZE` stay, and the latch, if set, stays set: what everything but RESET and a
LOAD that fits does (`10_state.md` R23, R24, R26). -/
structure State.KeepsProgramAndLatch (s t : State) : Prop where
  prog  : t.prog = s.prog
  psize : t.psize = s.psize
  latch : s.err = true → t.err = true

/-- The engine is between steps and its oldest waiting command is a LOAD that fits (`70_reset_and_hazards.md` R204). -/
def State.TakesFittingLoad (s : State) : Prop :=
  s.busy = none ∧ ∃ q, s.pending.head? = some (.load q) ∧ q.length ≤ s.cfg.progCapacity

theorem exec_keepsProgramAndLatch {i : Instr} {s t : State} (h : exec i s = .next t) : s.KeepsProgramAndLatch t := by
  rcases exec_next_cases h with
    ⟨-, rfl⟩ | ⟨-, rfl⟩ | ⟨-, -, rfl⟩ | ⟨-, -, rfl⟩ | ⟨-, -, -, rfl⟩ | ⟨-, -, -, rfl⟩ | ⟨-, -, rfl⟩ |
    ⟨-, -, x, rest, -, rfl⟩ | ⟨-, -, -, rfl⟩ | ⟨-, -, -, rfl⟩ | ⟨-, -, -, rfl⟩ | ⟨-, -, -, -, rfl⟩ | ⟨b, -, rfl⟩ <;>
    exact ⟨by simp, by simp, fun he => by simp [he]⟩

theorem stepper_keepsProgramAndLatch {who : Issuer} {s t : State} (h : stepper who s = .next t) :
    s.KeepsProgramAndLatch t := by
  obtain ⟨-, rfl⟩ | ⟨-, -, rfl⟩ | ⟨-, -, u, hu, rfl⟩ := stepper_next_cases h
  · constructor <;> simp
  · constructor <;> simp
  · obtain ⟨hprog, hpsize, hlatch⟩ := exec_keepsProgramAndLatch hu
    exact ⟨by simpa using hprog, by simpa using hpsize, by simpa using hlatch⟩

/-- Taking the command that starts a step changes neither the program nor the latch. -/
theorem State.StartsStep.keepsProgramAndLatch {s u t : State} {who : Issuer} (h : s.StartsStep u who)
    (hu : u.KeepsProgramAndLatch t) : s.KeepsProgramAndLatch t := by
  obtain ⟨hprog, hpsize, hlatch⟩ := hu
  obtain ⟨-, rfl⟩ | ⟨-, -, rest, -, rfl⟩ | ⟨-, -, -, -, rfl⟩ := h <;> exact ⟨hprog, hpsize, hlatch⟩

theorem HostMove.apply_keepsProgramAndLatch {m : HostMove} (hm : m ≠ .reset) (s : State) :
    s.KeepsProgramAndLatch (m.apply s) := by
  cases m with
  | reset => exact absurd rfl hm
  | pause | command c | offer x | setTaking b => exact ⟨rfl, rfl, id⟩

theorem engineMove_keepsProgramAndLatch_or_takesFittingLoad {s t : State} (h : engineMove s = .next t) :
    s.KeepsProgramAndLatch t ∨ s.TakesFittingLoad := by
  obtain ⟨who, u, hstart, hstep⟩ | ⟨hb, q, rest, hp, rfl⟩ | ⟨-, rest, -, rfl⟩ | ⟨-, rest, -, rfl⟩ | ⟨-, -, -, rfl⟩ :=
    engineMove_next_cases h
  case inl => exact .inl (hstart.keepsProgramAndLatch (stepper_keepsProgramAndLatch hstep))
  case inr.inl =>
    obtain ⟨-, hfail⟩ | ⟨hfit, -⟩ := State.load_cases (s.setPending rest) q
    · exact .inl (by rw [hfail]; exact ⟨rfl, rfl, id⟩)
    · exact .inr ⟨hb, q, by simp [hp], hfit⟩
  all_goals exact .inl ⟨rfl, rfl, id⟩

/-- A machine step keeps the program and a set latch, or it is a RESET, or an engine move that takes a LOAD that fits. -/
theorem step_keepsProgramAndLatch_or_reset_or_load {s t : State} (h : step s = .next t) :
    s.KeepsProgramAndLatch t ∨ s.moves.head? = some .reset ∨
    ((s.moves = [] ∨ s.moves.head? = some .pause) ∧ s.TakesFittingLoad) := by
  obtain ⟨-, ⟨m, rest, -, hm, rfl⟩ | ⟨ms, hms, hmove⟩⟩ := step_next_cases h
  · by_cases hreset : m = .reset
    · exact .inr (.inl (by simp [hm, hreset]))
    · obtain ⟨hprog, hpsize, hlatch⟩ := HostMove.apply_keepsProgramAndLatch hreset (s.setMoves rest)
      exact .inl ⟨hprog, hpsize, hlatch⟩
  · obtain ⟨hprog, hpsize, hlatch⟩ | hload := engineMove_keepsProgramAndLatch_or_takesFittingLoad hmove
    · exact .inl ⟨hprog, hpsize, hlatch⟩
    · have hpause : s.moves = [] ∨ s.moves.head? = some .pause := hms.imp And.left fun h => by simp [h]
      exact .inr (.inr ⟨hpause, hload⟩)

/-- Settles O15: an instruction keeps the program, and so does a machine step that is no RESET and takes no LOAD. -/
theorem onlyLoadAndResetChangeProgram : Obligations.OnlyLoadAndResetChangeProgram := by
  refine ⟨fun i s t h => ?_, fun s t h hne => ?_⟩
  · obtain ⟨hprog, hpsize, -⟩ := exec_keepsProgramAndLatch h
    exact ⟨hprog, hpsize⟩
  · obtain ⟨hprog, hpsize, -⟩ | hreset | ⟨hpause, hb, q, hq, -⟩ := step_keepsProgramAndLatch_or_reset_or_load h
    · exact absurd hne (by simp [hprog, hpsize])
    · exact .inl hreset
    · exact .inr ⟨hpause, hb, q, hq⟩

/-- Settles O41: a machine step that is no RESET and takes no LOAD that fits keeps a set latch set. -/
theorem latchHoldsUntilResetOrLoad : Obligations.LatchHoldsUntilResetOrLoad := by
  intro s t hs h ht
  obtain ⟨-, -, hlatch⟩ | hreset | hload := step_keepsProgramAndLatch_or_reset_or_load h
  · exact absurd (hlatch hs) (by simp [ht])
  · exact .inl hreset
  · exact .inr hload

end Sys2Proof.Machine
end

section
/-! SUPPORT. What the host sees: the STATUS code (`10_state.md` R27) and the answer to observe (R29). -/

namespace Sys2Proof.Machine

/-! ### STATUS -/

/-- STATUS by the latch and the halt condition. -/
theorem State.status_cases (s : State) :
    (s.err = true ∧ s.status = 0b10) ∨
    (s.err = false ∧ s.psize ≤ s.ip ∧ s.status = 0b01) ∨
    (s.err = false ∧ s.ip < s.psize ∧ s.status = 0b00) := by
  unfold State.status
  cases s.err
  · rcases Nat.lt_or_ge s.ip s.psize with hlt | hge
    · simp [hlt]
    · simp [hge]
  · simp

/-- Settles O6: each of the three cases of STATUS has its own code, and none has 0b11. -/
theorem statusCodesTheState : Obligations.StatusCodesTheState := by
  intro s
  obtain ⟨herr, hst⟩ | ⟨herr, hip, hst⟩ | ⟨herr, hip, hst⟩ := s.status_cases
  · simp [herr, hst]
  · simp [herr, hst, hip]
  · simp [herr, hst, hip]

/-! ### Observe -/

theorem Memory.getElem?_toBytes (m : Memory) {n a : Nat} (h : a < n) : (m.toBytes n)[a]? = some (m.read a) := by
  rw [List.getElem?_eq_getElem (by simpa using h), Memory.getElem_toBytes]

/-- The waiting commands are no host-visible item. -/
@[simp] theorem State.setPending_observation (s : State) (cs : List Command) :
    (s.setPending cs).observation = s.observation := rfl

/-- Observe, taken between steps, answers with the host-visible items. -/
theorem step_of_observe {s : State} {rest : List Command} (h0 : 0 < s.cfg.tapeSize) (hm : s.moves = [])
    (hb : s.busy = none) (hp : s.pending = .observe :: rest) :
    step s = .next ((s.setPending rest).respond (.observed s.observation)) := by
  rw [step_eq_engineMove h0 hm, engineMove_of_pending hb hp, serve, State.setPending_observation]

/-- Settles O53: the answer is `s.observation`, whose items are the state's values and whose lists are both stores in
full. -/
theorem observeAnswersEveryItem : Obligations.ObserveAnswersEveryItem := by
  intro s rest h0 hm hb hp
  exact ⟨s.observation, step_of_observe h0 hm hb hp, rfl, rfl, rfl, rfl, rfl, rfl, rfl,
    Memory.length_toBytes _ _, fun _ ha => Memory.getElem?_toBytes _ ha,
    Memory.length_toBytes _ _, fun _ ha => Memory.getElem?_toBytes _ ha⟩

end Sys2Proof.Machine
end

section
/-! SUPPORT. Absent addresses (`20_memory.md` R42, R43, R48): an access to one stops with its own fault, and where `dp`
names a tape cell no machine step makes one. -/

namespace Sys2Proof.Machine

/-! ### An access to an absent address -/

theorem execInp_of_absent {s : State} (hd : s.cfg.tapeSize ≤ s.dp) (hin : s.input ≠ []) :
    execInp s = .fault .tapeAddress := by
  obtain ⟨x, rest, hx⟩ := List.exists_cons_of_ne_nil hin
  simp only [execInp, hx, State.onTape_of_ge hd]

/-- The backward scan is guarded on its own, behind the guard of the current cell. -/
theorem execJnz_of_ip_past_program {s : State} (hd : s.dp < s.cfg.tapeSize) (hz : s.cell ≠ 0)
    (hp : s.psize < s.ip) : execJnz s = .fault .programAddress := by
  rw [execJnz, State.onTape_of_lt hd, if_neg (by simpa using hz), if_pos hp]

/-- Settles O24: `onTape` answers the fault of every access to the current cell, JNZ's own guard the other one. -/
theorem absentAddressStops : Obligations.AbsentAddressStops :=
  ⟨fun _ hd =>
    ⟨State.onTape_of_ge hd _, State.onTape_of_ge hd _, State.onTape_of_ge hd _, State.onTape_of_ge hd _,
      State.onTape_of_ge hd _, execInp_of_absent hd⟩,
   fun _ => execJnz_of_ip_past_program⟩

/-! ### Every layer completes while `dp` names a cell

`ip` needs no such bound: the Stepper's halt check stands before the dispatch (`40_sequencer.md` R82). -/

theorem stepper_completes (who : Issuer) {s : State} (hd : s.dp < s.cfg.tapeSize) : ∃ t, stepper who s = .next t := by
  unfold stepper
  split
  · exact ⟨_, rfl⟩
  · split
    · exact ⟨_, rfl⟩
    · rename_i hip
      obtain ⟨u, hu⟩ := exec_completes (decodeByte (s.fetch s.ip)) hd (by omega)
      exact ⟨_, settleResult_next.mpr ⟨u, hu, rfl⟩⟩

theorem serve_completes (c : Command) {s : State} (hd : s.dp < s.cfg.tapeSize) : ∃ t, serve c s = .next t := by
  cases c with
  | step => exact stepper_completes .step hd
  | load q | run | observe => exact ⟨_, rfl⟩

theorem engineMove_completes {s : State} (hd : s.dp < s.cfg.tapeSize) : ∃ t, engineMove s = .next t := by
  obtain ⟨who, -, e⟩ | ⟨c, rest, -, -, e⟩ | ⟨-, -, -, e⟩ | ⟨-, -, -, e⟩ := engineMove_cases s <;> rw [e]
  · exact stepper_completes who hd
  · exact serve_completes c hd
  · exact ⟨s, rfl⟩
  · exact stepper_completes .run hd

theorem step_completes {s : State} (hd : s.dp < s.cfg.tapeSize) : ∃ t, step s = .next t := by
  obtain ⟨h0, -⟩ | ⟨-, -, e⟩ | ⟨-, rest, -, e⟩ | ⟨-, m, rest, -, -, e⟩ := step_cases s
  · omega
  · exact e ▸ engineMove_completes hd
  · exact e ▸ engineMove_completes hd
  · exact ⟨_, e⟩

/-! ### Every layer keeps `dp` on a cell -/

theorem exec_keeps_dp_lt {i : Instr} {s t : State} (hd : s.dp < s.cfg.tapeSize) (h : exec i s = .next t) :
    t.dp < s.cfg.tapeSize := by
  rcases exec_next_cases h with
    ⟨-, rfl⟩ | ⟨-, rfl⟩ | ⟨-, -, rfl⟩ | ⟨-, -, rfl⟩ | ⟨-, -, -, rfl⟩ | ⟨-, -, -, rfl⟩ | ⟨-, -, rfl⟩ |
    ⟨-, -, x, rest, -, rfl⟩ | ⟨-, -, -, rfl⟩ | ⟨-, -, -, rfl⟩ | ⟨-, -, -, rfl⟩ | ⟨-, -, -, -, rfl⟩ | ⟨b, -, rfl⟩
  · exact ptrDec_lt hd
  · exact ptrInc_lt hd
  all_goals simpa using hd

theorem stepper_keeps_dp_lt {who : Issuer} {s t : State} (hd : s.dp < s.cfg.tapeSize)
    (h : stepper who s = .next t) : t.dp < s.cfg.tapeSize := by
  obtain ⟨-, rfl⟩ | ⟨-, -, rfl⟩ | ⟨-, -, u, hu, rfl⟩ := stepper_next_cases h
  · simpa using hd
  · simpa using hd
  · simpa using exec_keeps_dp_lt hd hu

/-- LOAD leaves `dp` alone or sets it to 0 (`70_reset_and_hazards.md` R204). -/
theorem State.load_dp_le (s : State) (q : List Byte) : (s.load q).dp ≤ s.dp := by
  obtain ⟨-, hfail⟩ | ⟨-, hfit⟩ := s.load_cases q
  · simp [hfail]
  · simp [hfit]

theorem State.StartsStep.dp_eq {s u : State} {who : Issuer} (h : s.StartsStep u who) : u.dp = s.dp := by
  obtain ⟨-, rfl⟩ | ⟨-, -, rest, -, rfl⟩ | ⟨-, -, -, -, rfl⟩ := h <;> rfl

theorem engineMove_keeps_dp_lt {s t : State} (hd : s.dp < s.cfg.tapeSize) (h : engineMove s = .next t) :
    t.dp < s.cfg.tapeSize := by
  obtain ⟨who, u, hstart, hstep⟩ | ⟨-, q, rest, -, rfl⟩ | ⟨-, rest, -, rfl⟩ | ⟨-, rest, -, rfl⟩ | ⟨-, -, -, rfl⟩ :=
    engineMove_next_cases h
  case inl =>
    have hu : u.dp < u.cfg.tapeSize := by rwa [hstart.dp_eq, hstart.cfg_eq]
    exact hstart.cfg_eq ▸ stepper_keeps_dp_lt hu hstep
  case inr.inl => exact ((s.setPending rest).load_dp_le q).trans_lt hd
  all_goals exact hd

/-- A host move leaves `dp` alone or, as RESET, sets it to 0 (`70_reset_and_hazards.md` R201). -/
theorem HostMove.apply_dp_le (m : HostMove) (s : State) : (m.apply s).dp ≤ s.dp := by
  cases m <;> simp [HostMove.apply]

theorem step_keeps_dp_lt {s t : State} (hd : s.dp < s.cfg.tapeSize) (h : step s = .next t) :
    t.dp < t.cfg.tapeSize := by
  rw [step_keeps_cfg h]
  obtain ⟨-, ⟨m, rest, -, -, rfl⟩ | ⟨ms, -, hmove⟩⟩ := step_next_cases h
  · exact (m.apply_dp_le (s.setMoves rest)).trans_lt hd
  · exact engineMove_keeps_dp_lt (s := s.setMoves ms) hd hmove

/-! ### Runs -/

theorem run_succ_of_next {M : Host.Core} {s t : M.State} (k : Nat) (h : M.step s = .next t) :
    M.run (k + 1) s = M.run k t := by
  rw [Host.Core.run, h]

theorem safeRun_of_dp_lt (k : Nat) {s : State} (hd : s.dp < s.cfg.tapeSize) : SafeRun k s := by
  induction k generalizing s with
  | zero => exact ⟨s, rfl⟩
  | succ k ih =>
    obtain ⟨t, ht⟩ := step_completes hd
    obtain ⟨u, hu⟩ := ih (step_keeps_dp_lt hd ht)
    exact ⟨u, (run_succ_of_next (M := Sys2Proof.core) k ht).trans hu⟩

/-- Settles O12: of `Inv` the range of `dp` alone is needed; where it holds a machine step completes and keeps it. -/
theorem consistentRunsNeverStop : Obligations.ConsistentRunsNeverStop :=
  fun k _ hinv => safeRun_of_dp_lt k hinv.dp_lt

end Sys2Proof.Machine
end

section
/-! SUPPORT. The order of the port traffic (`20_memory.md` R51, `42_io.md` R120, R125): one lemma per layer of a machine
step says which byte or item it can move, and for which instruction. -/

namespace Sys2Proof.Machine

@[simp] theorem State.branch_input (s : State) (o : Option Nat) : (s.branch o).input = s.input := by
  cases o <;> simp [State.branch]

@[simp] theorem State.branch_output (s : State) (o : Option Nat) : (s.branch o).output = s.output := by
  cases o <;> simp [State.branch]

/-- From `s` to `t` the engine moves nothing at either port, or instruction `i` completes: an OUT that appends the current
cell to the output, or an IN that takes the oldest item. -/
def State.MovesAtMostOne (i : Instr) (s t : State) : Prop :=
  (t.output = s.output ∧ t.input = s.input) ∨
  (i = .out ∧ t.output = s.output ++ [s.cell] ∧ t.input = s.input ∧ t.ip = s.ip + 1) ∨
  (i = .inp ∧ t.output = s.output ∧ (∃ x, s.input = x :: t.input) ∧ t.ip = s.ip + 1)

theorem exec_movesAtMostOne {i : Instr} {s t : State} (h : exec i s = .next t) : s.MovesAtMostOne i t := by
  rcases exec_next_cases h with
    ⟨-, rfl⟩ | ⟨-, rfl⟩ | ⟨-, -, rfl⟩ | ⟨-, -, rfl⟩ | ⟨hi, -, -, rfl⟩ | ⟨-, -, -, rfl⟩ | ⟨-, -, rfl⟩ |
    ⟨hi, -, x, rest, hin, rfl⟩ | ⟨-, -, -, rfl⟩ | ⟨-, -, -, rfl⟩ | ⟨-, -, -, rfl⟩ | ⟨-, -, -, -, rfl⟩ | ⟨b, -, rfl⟩
  -- OUT that is taken, and IN that takes an item
  on_goal 5 => exact .inr (.inl ⟨hi, rfl, rfl, rfl⟩)
  on_goal 7 => exact .inr (.inr ⟨hi, rfl, ⟨x, hin⟩, rfl⟩)
  all_goals exact .inl ⟨by simp, by simp⟩

theorem stepper_movesAtMostOne {who : Issuer} {s t : State} (h : stepper who s = .next t) :
    s.MovesAtMostOne (decodeByte (s.fetch s.ip)) t := by
  obtain ⟨-, rfl⟩ | ⟨-, -, rfl⟩ | ⟨-, -, u, hu, rfl⟩ := stepper_next_cases h
  · exact .inl ⟨by simp, by simp⟩
  · exact .inl ⟨by simp, by simp⟩
  · simpa [State.MovesAtMostOne] using exec_movesAtMostOne hu

theorem engineMove_movesAtMostOne {s t : State} (h : engineMove s = .next t) :
    s.MovesAtMostOne (decodeByte (s.fetch s.ip)) t := by
  obtain ⟨who, u, hstart, hstep⟩ | ⟨-, q, rest, -, rfl⟩ | ⟨-, rest, -, rfl⟩ | ⟨-, rest, -, rfl⟩ | ⟨-, -, -, rfl⟩ :=
    engineMove_next_cases h
  case inl =>
    have hmoves := stepper_movesAtMostOne hstep
    -- the command that starts the step leaves the queue, which no clause reads
    obtain ⟨-, rfl⟩ | ⟨-, -, rest, -, rfl⟩ | ⟨-, -, -, -, rfl⟩ := hstart <;> exact hmoves
  all_goals exact .inl ⟨by simp, by simp⟩

/-- A host move hands over no byte and takes no item; it adds an item only by offering it. -/
theorem HostMove.apply_ports (m : HostMove) (s : State) :
    (m.apply s).output = s.output ∧
    ((m.apply s).input = s.input ∨ ∃ x, m = .offer x ∧ (m.apply s).input = s.input ++ [x]) := by
  cases m with
  | offer x => exact ⟨rfl, .inr ⟨x, rfl, rfl⟩⟩
  | pause | reset | command c | setTaking b => exact ⟨rfl, .inl rfl⟩

/-- Settles O33: a host move adds at most the item it offers, an engine move completes at most one OUT or IN. -/
theorem portsKeepProgramOrder : Obligations.PortsKeepProgramOrder := by
  intro s t h
  obtain ⟨-, ⟨m, rest, -, hm, rfl⟩ | ⟨ms, -, hmove⟩⟩ := step_next_cases h
  · obtain ⟨hout, hin | ⟨x, rfl, hin⟩⟩ := m.apply_ports (s.setMoves rest)
    · exact ⟨.inl hout, .inl hin⟩
    · exact ⟨.inl hout, .inr (.inr ⟨x, hin, by simp [hm]⟩)⟩
  · obtain ⟨hout, hin⟩ | ⟨hi, hout, hin, hip⟩ | ⟨hi, hout, ⟨x, hx⟩, hip⟩ := engineMove_movesAtMostOne hmove
    · exact ⟨.inl hout, .inl hin⟩
    · exact ⟨.inr ⟨hout, hi, hip⟩, .inl hin⟩
    · exact ⟨.inl hout, .inr (.inl ⟨x, hx, hi, hip⟩)⟩

end Sys2Proof.Machine
end

section
/-! SUPPORT. Decoding and encoding are inverse (`30_encoding.md` R60 to R64, R67): on single bytes, on program texts, and
through LOAD and fetch (`70_reset_and_hazards.md` R204). -/

namespace Sys2Proof

/-! ### One byte -/

@[simp] theorem decodeByte_encode {i : Instr} (h : i.wf = true) : decodeByte (encode i) = i := by
  cases i with
  | left => exact Laws.RoundTrip.left h
  | right => exact Laws.RoundTrip.right h
  | inc => exact Laws.RoundTrip.inc h
  | dec => exact Laws.RoundTrip.dec h
  | out => exact Laws.RoundTrip.out h
  | inp => exact Laws.RoundTrip.inp h
  | jz => exact Laws.RoundTrip.jz h
  | jnz => exact Laws.RoundTrip.jnz h
  | nop b => exact Laws.RoundTrip.nop b h

theorem Instr.wf_nop {b : Byte} : (Instr.nop b).wf = true ↔ b ∉ opcodeBytes := by
  simp [Instr.wf]

theorem decodeByte_of_not_mem_opcodeBytes {b : Byte} (h : b ∉ opcodeBytes) : decodeByte b = .nop b :=
  decodeByte_encode (Instr.wf_nop.mpr h)

/-- An opcode byte stands for an instruction other than NOP, which has no field and whose byte it is (R61, R63). -/
theorem decodeByte_of_mem_opcodeBytes :
    ∀ b ∈ opcodeBytes, encode (decodeByte b) = b ∧ (decodeByte b).wf = true ∧ decodeByte b ≠ .nop b := by
  decide

theorem decodeByte_eq_nop_iff {b : Byte} : decodeByte b = .nop b ↔ b ∉ opcodeBytes := by
  refine ⟨fun hnop hmem => ?_, decodeByte_of_not_mem_opcodeBytes⟩
  obtain ⟨-, -, hne⟩ := decodeByte_of_mem_opcodeBytes b hmem
  exact hne hnop

theorem decodeByte_wf (b : Byte) : (decodeByte b).wf = true := by
  by_cases hb : b ∈ opcodeBytes
  · obtain ⟨-, hwf, -⟩ := decodeByte_of_mem_opcodeBytes b hb
    exact hwf
  · rw [decodeByte_of_not_mem_opcodeBytes hb]
    exact Instr.wf_nop.mpr hb

@[simp] theorem encode_decodeByte (b : Byte) : encode (decodeByte b) = b := by
  by_cases hb : b ∈ opcodeBytes
  · obtain ⟨henc, -, -⟩ := decodeByte_of_mem_opcodeBytes b hb
    exact henc
  · rw [decodeByte_of_not_mem_opcodeBytes hb, encode]

/-! ### A program text -/

@[simp] theorem length_encodeProgram (is : List Instr) : (encodeProgram is).length = is.length :=
  List.length_map _

theorem decodeProgram_encodeProgram {is : List Instr} (h : ∀ i ∈ is, i.wf = true) :
    decodeProgram (encodeProgram is) = is := by
  calc decodeProgram (encodeProgram is)
    _ = is.map (decodeByte ∘ encode) := List.map_map
    _ = is.map id := List.map_congr_left fun i hi => decodeByte_encode (h i hi)
    _ = is := List.map_id is

end Sys2Proof

namespace Sys2Proof.Machine

/-! ### A loaded program -/

/-- The store that LOAD fills holds the loaded bytes, in address order. -/
@[simp] theorem Memory.toBytes_ofBytes (q : List Byte) : (Memory.ofBytes 0 q).toBytes q.length = q := by
  apply List.ext_getElem (Memory.length_toBytes _ _)
  intro a _ ha
  rw [Memory.getElem_toBytes]
  simpa using Memory.read_ofBytes q 0 a ha

theorem State.load_of_fits {s : State} {q : List Byte} (h : q.length ≤ s.cfg.progCapacity) :
    s.load q = (s.replaceProgram q).respond .loadOK :=
  if_neg (Nat.not_lt.mpr h)

theorem State.load_psize_of_fits {s : State} {q : List Byte} (h : q.length ≤ s.cfg.progCapacity) :
    (s.load q).psize = q.length := by
  simp [State.load_of_fits h]

theorem State.load_prog_of_fits {s : State} {q : List Byte} (h : q.length ≤ s.cfg.progCapacity) :
    (s.load q).prog = Memory.ofBytes 0 q := by
  simp [State.load_of_fits h]

theorem State.fetch_load_of_fits {s : State} {q : List Byte} (h : q.length ≤ s.cfg.progCapacity) {a : Nat}
    (ha : a < q.length) : (s.load q).fetch a = q[a] := by
  rw [State.fetch, State.load_prog_of_fits h]
  simpa using Memory.read_ofBytes q 0 a ha

/-! ### The statements -/

/-- Settles O3: after a LOAD that fits, fetch and the whole store give the encoded bytes, and every instruction of a
well-formed program is what its byte decodes to. -/
theorem loadedProgramDecodesBack : Obligations.LoadedProgramDecodesBack := by
  intro s is hwf hlen
  have hfit : (encodeProgram is).length ≤ s.cfg.progCapacity := by simpa using hlen
  refine ⟨?psize, fun a ha => ?fetched, ?store⟩
  case psize => rw [State.load_psize_of_fits hfit, length_encodeProgram]
  case fetched =>
    have hbyte : (s.load (encodeProgram is)).fetch a = encode is[a] := by
      simpa [encodeProgram] using State.fetch_load_of_fits hfit (a := a) (by simpa using ha)
    rw [hbyte, decodeByte_encode (hwf _ (List.getElem_mem ha))]
  case store =>
    rw [State.load_prog_of_fits hfit, ← length_encodeProgram, Memory.toBytes_ofBytes, decodeProgram_encodeProgram hwf]

/-- Settles O1: the eight opcodes are the bytes of well-formed instructions, the three neighbours are no opcodes. -/
theorem opcodeBytesDecode : Obligations.OpcodeBytesDecode :=
  ⟨decodeByte_encode (i := .left) rfl, decodeByte_encode (i := .right) rfl, decodeByte_encode (i := .inc) rfl,
    decodeByte_encode (i := .dec) rfl, decodeByte_encode (i := .out) rfl, decodeByte_encode (i := .inp) rfl,
    decodeByte_encode (i := .jz) rfl, decodeByte_encode (i := .jnz) rfl,
    decodeByte_of_not_mem_opcodeBytes (by decide), decodeByte_of_not_mem_opcodeBytes (by decide),
    decodeByte_of_not_mem_opcodeBytes (by decide)⟩

/-- Settles O2: encoding undoes decoding at every byte, and the bytes that decode to NOP are those outside
`opcodeBytes`. -/
theorem everyByteDecodes : Obligations.EveryByteDecodes := by
  intro b
  refine ⟨encode_decodeByte b, decodeByte_wf b, ?_⟩
  rw [decodeByte_eq_nop_iff]
  simp [opcodeBytes]

end Sys2Proof.Machine
end

section
/-! SUPPORT. An equation per case of the instructions that have one (`42_io.md` R122, R126, `43_loop.md` R143, R144):
the converse of `exec_next_cases` where the dispatch alone does not say it. -/

namespace Sys2Proof.Machine

theorem exec_out_of_taking {s : State} (hd : s.dp < s.cfg.tapeSize) (htaking : s.taking = true) :
    exec .out s = .next (s.handOver s.cell).advance := by
  rw [exec, execOut, State.onTape_of_lt hd, if_pos htaking]

theorem exec_out_of_not_taking {s : State} (hd : s.dp < s.cfg.tapeSize) (htaking : s.taking = false) :
    exec .out s = .next (s.waitOffering s.cell) := by
  rw [exec, execOut, State.onTape_of_lt hd, if_neg (by simp [htaking])]

theorem exec_inp_of_no_item {s : State} (hin : s.input = []) : exec .inp s = .next s.waitAwaiting := by
  simp only [exec, execInp, hin]

theorem exec_inp_of_item {s : State} {x : InItem} {rest : List InItem} (hd : s.dp < s.cfg.tapeSize)
    (hin : s.input = x :: rest) :
    exec .inp s = .next ((s.takeInput rest).setCell (x.value s.cfg.eofByte)).advance := by
  simp only [exec, execInp, hin, State.onTape_of_lt hd]

theorem exec_jz_of_zero {s : State} (hd : s.dp < s.cfg.tapeSize) (hz : s.cell = 0) :
    exec .jz s = .next (s.branch (s.scanForward s.ip)) := by
  rw [exec, execJz, State.onTape_of_lt hd, if_pos (by simpa using hz)]

theorem exec_jz_of_nonzero {s : State} (hd : s.dp < s.cfg.tapeSize) (hz : s.cell ≠ 0) :
    exec .jz s = .next s.advance := by
  rw [exec, execJz, State.onTape_of_lt hd, if_neg (by simpa using hz)]

theorem exec_jnz_of_zero {s : State} (hd : s.dp < s.cfg.tapeSize) (hz : s.cell = 0) :
    exec .jnz s = .next s.advance := by
  rw [exec, execJnz, State.onTape_of_lt hd, if_pos (by simpa using hz)]

theorem exec_jnz_of_nonzero {s : State} (hd : s.dp < s.cfg.tapeSize) (hz : s.cell ≠ 0) (hip : s.ip ≤ s.psize) :
    exec .jnz s = .next (s.branch (s.scanBackward s.ip)) := by
  rw [exec, execJnz, State.onTape_of_lt hd, if_neg (by simpa using hz), if_neg (by omega)]

end Sys2Proof.Machine
end

section
/-! SUPPORT. The step as an equation (`40_sequencer.md` R80 to R89): what the Stepper answers in each case of its two
checks, how a step ends, and which machine steps are a step of the Stepper. -/

namespace Sys2Proof.Machine

/-! ### The end of a step -/

theorem State.settle_of_waiting {s : State} (hport : s.port ≠ .idle) (who : Issuer) :
    s.settle who = s.keepWaiting who := by
  obtain ⟨-, hsettle⟩ | ⟨hidle, -⟩ | ⟨hidle, -⟩ := s.settle_cases who
  · exact hsettle
  · exact absurd hidle hport
  · exact absurd hidle hport

theorem State.settle_of_raised {s : State} (hport : s.port = .idle) (herr : s.err = true) (who : Issuer) :
    s.settle who = s.answer who .error := by
  simp only [State.settle, hport, herr, if_true]

theorem State.settle_of_completed {s : State} (hport : s.port = .idle) (herr : s.err = false) (who : Issuer) :
    s.settle who = s.answer who .cont := by
  simp only [State.settle, hport, herr, Bool.false_eq_true, if_false]

@[simp] theorem State.answer_step_responses (s : State) (r : StepResult) :
    (s.answer .step r).responses = s.responses ++ [.step r] := by
  rw [State.answer_step]

@[simp] theorem State.answer_run_cont_responses (s : State) : (s.answer .run .cont).responses = s.responses := rfl

@[simp] theorem State.answer_run_cont_runs (s : State) : (s.answer .run .cont).runs = s.runs := rfl

/-- Settles O43: a transfer in progress keeps the step going; otherwise the latch decides between Error and Continue. -/
theorem stepEndsWithItsResult : Obligations.StepEndsWithItsResult := by
  refine ⟨fun t who hport => ?_, fun t hport herr => ?_, fun t hport herr => ?_, fun _ _ => rfl, fun _ _ => rfl⟩
  · rw [settleResult, State.settle_of_waiting hport, State.keepWaiting]
  · rw [settleResult, settleResult, State.settle_of_raised hport herr, State.settle_of_raised hport herr,
      State.answer_step, State.answer]
    exact ⟨rfl, rfl⟩
  · rw [settleResult, settleResult, State.settle_of_completed hport herr, State.settle_of_completed hport herr,
      State.answer_step, State.answer]
    exact ⟨rfl, rfl⟩

/-! ### The Stepper: the latch check, the halt check, the instruction -/

theorem stepper_of_running {s : State} (herr : s.err = false) (hip : s.ip < s.psize) (who : Issuer) :
    stepper who s = settleResult who (exec (decodeByte (s.fetch s.ip)) s) := by
  rw [stepper, if_neg (by simp [herr]), if_neg (by omega)]

/-- STATUS is ERROR or HALTED, and `r` is the result that a step then gives (R81, R82). -/
def State.FinalWith (s : State) (r : StepResult) : Prop :=
  (s.err = true ∧ r = .error) ∨ (s.err = false ∧ s.psize ≤ s.ip ∧ r = .halt)

theorem State.FinalWith.ne_cont {s : State} {r : StepResult} (h : s.FinalWith r) : r ≠ .cont := by
  obtain ⟨-, rfl⟩ | ⟨-, -, rfl⟩ := h <;> simp

theorem stepper_of_finalWith {s : State} {r : StepResult} (h : s.FinalWith r) (who : Issuer) :
    stepper who s = .next (s.answer who r) := by
  obtain ⟨herr, rfl⟩ | ⟨herr, hip, rfl⟩ := h
  · rw [stepper, if_pos herr]
  · rw [stepper, if_neg (by simp [herr]), if_pos hip]

/-- A step of the Stepper that answers a next state only answers in a final state, and else settles its instruction. -/
theorem stepper_next_final_or_runs {who : Issuer} {s t : State} (h : stepper who s = .next t) :
    (∃ r, s.FinalWith r ∧ t = s.answer who r) ∨
    (s.err = false ∧ s.ip < s.psize ∧
      ∃ u, exec (decodeByte (s.fetch s.ip)) s = .next u ∧ t = u.settle who) := by
  obtain ⟨herr, ht⟩ | ⟨herr, hip, ht⟩ | hruns := stepper_next_cases h
  · exact .inl ⟨_, .inl ⟨herr, rfl⟩, ht⟩
  · exact .inl ⟨_, .inr ⟨herr, hip, rfl⟩, ht⟩
  · exact .inr hruns

/-! ### The machine steps that are a step of the Stepper

The host has no further move or pauses, and a RUN goes on, a STEP is taken, or a waiting step is resumed. -/

theorem engineMove_of_startsStep {s u : State} {who : Issuer} (h : s.StartsStep u who) :
    engineMove s = stepper who u := by
  obtain ⟨hb, rfl⟩ | ⟨hb, rfl, rest, hp, rfl⟩ | ⟨hb, rfl, hp, hr, rfl⟩ := h
  · exact engineMove_of_busy hb
  · exact engineMove_of_pending hb hp
  · exact engineMove_of_run hb hp hr

theorem step_eq_stepper_of_pause {s u : State} {ms : List HostMove} {who : Issuer} (h0 : 0 < s.cfg.tapeSize)
    (hm : (s.moves = [] ∧ ms = []) ∨ s.moves = .pause :: ms) (h : (s.setMoves ms).StartsStep u who) :
    step s = stepper who u :=
  (step_eq_engineMove_of_pause h0 hm).trans (engineMove_of_startsStep h)

theorem step_eq_stepper {s u : State} {who : Issuer} (h0 : 0 < s.cfg.tapeSize) (hm : s.moves = [])
    (h : s.StartsStep u who) : step s = stepper who u :=
  (step_eq_engineMove h0 hm).trans (engineMove_of_startsStep h)

theorem State.startsStep_run {s : State} (hb : s.busy = none) (hp : s.pending = []) (hr : 0 < s.runs) :
    s.StartsStep s .run :=
  .inr (.inr ⟨hb, rfl, hp, hr, rfl⟩)

theorem State.startsStep_step {s : State} {rest : List Command} (hb : s.busy = none)
    (hp : s.pending = .step :: rest) : s.StartsStep (s.setPending rest) .step :=
  .inr (.inl ⟨hb, rfl, rest, hp, rfl⟩)

theorem State.startsStep_busy {s : State} {who : Issuer} (hb : s.busy = some who) : s.StartsStep s who :=
  .inl ⟨hb, rfl⟩

/-- Settles O42: each of the three machine steps is the Stepper's, and both of its checks pass. -/
theorem stepRunsDecodedInstruction : Obligations.StepRunsDecodedInstruction := by
  intro s ms h0 hm herr hip
  refine ⟨fun hb hp hr => ?_, fun rest hb hp => ?_, fun who hb => ?_⟩
  · exact (step_eq_stepper_of_pause h0 hm (State.startsStep_run hb hp hr)).trans
      (stepper_of_running (s := s.setMoves ms) herr hip _)
  · exact (step_eq_stepper_of_pause h0 hm (State.startsStep_step hb hp)).trans
      (stepper_of_running (s := (s.setMoves ms).setPending rest) herr hip _)
  · exact (step_eq_stepper_of_pause h0 hm (State.startsStep_busy hb)).trans
      (stepper_of_running (s := s.setMoves ms) herr hip _)

/-! ### RUN commands -/

theorem step_of_run_command {s : State} {rest : List Command} (h0 : 0 < s.cfg.tapeSize) (hm : s.moves = [])
    (hb : s.busy = none) (hp : s.pending = .run :: rest) : step s = .next (s.setPending rest).startRun := by
  rw [step_eq_engineMove h0 hm, engineMove_of_pending hb hp, serve]

/-- Settles O50: to take a RUN command is `startRun`. -/
theorem runCommandStartsDriver : Obligations.RunCommandStartsDriver :=
  fun _ _ h0 hm hb hp => step_of_run_command h0 hm hb hp

/-! ### Steps in a final state -/

theorem step_of_finalWith {s u : State} {ms : List HostMove} {who : Issuer} {r : StepResult} (h0 : 0 < s.cfg.tapeSize)
    (hm : (s.moves = [] ∧ ms = []) ∨ s.moves = .pause :: ms) (h : (s.setMoves ms).StartsStep u who)
    (hfinal : u.FinalWith r) : step s = .next (u.answer who r) :=
  (step_eq_stepper_of_pause h0 hm h).trans (stepper_of_finalWith hfinal who)

section
variable {s : State} {r : StepResult} (hfinal : s.FinalWith r)
include hfinal

theorem stepper_answers_of_finalWith :
    stepper .step s = .next { s with busy := none, responses := s.responses ++ [.step r] } ∧
    stepper .run s =
      .next { s with busy := none, runs := s.runs - 1, responses := s.responses ++ [.run r] } := by
  rw [stepper_of_finalWith hfinal, stepper_of_finalWith hfinal, State.answer_step,
    State.answer_run_end s hfinal.ne_cont]
  exact ⟨rfl, rfl⟩

theorem step_answers_of_finalWith {ms : List HostMove} (h0 : 0 < s.cfg.tapeSize)
    (hm : (s.moves = [] ∧ ms = []) ∨ s.moves = .pause :: ms) :
    (s.busy = none → s.pending = [] → 0 < s.runs →
      step s = .next { s with moves := ms, runs := s.runs - 1, responses := s.responses ++ [.run r] }) ∧
    (∀ rest, s.busy = none → s.pending = .step :: rest →
      step s = .next { s with moves := ms, pending := rest, responses := s.responses ++ [.step r] }) ∧
    (s.busy = some .step →
      step s = .next { s with moves := ms, busy := none, responses := s.responses ++ [.step r] }) ∧
    (s.busy = some .run →
      step s =
        .next { s with moves := ms, busy := none, runs := s.runs - 1, responses := s.responses ++ [.run r] }) := by
  have hmoves : (s.setMoves ms).FinalWith r := hfinal
  refine ⟨fun hb hp hr => ?_, fun rest hb hp => ?_, fun hb => ?_, fun hb => ?_⟩
  · rw [step_of_finalWith h0 hm (State.startsStep_run hb hp hr) hmoves, State.answer_run_end _ hfinal.ne_cont, ← hb]
    rfl
  · have hpending : ((s.setMoves ms).setPending rest).FinalWith r := hfinal
    rw [step_of_finalWith h0 hm (State.startsStep_step hb hp) hpending, State.answer_step, ← hb]
    rfl
  · rw [step_of_finalWith h0 hm (State.startsStep_busy hb) hmoves, State.answer_step]
    rfl
  · rw [step_of_finalWith h0 hm (State.startsStep_busy hb) hmoves, State.answer_run_end _ hfinal.ne_cont]
    rfl

/-- The RUN that is counted by the first machine step is ended by the second. -/
theorem run_command_answered_of_finalWith (h0 : 0 < s.cfg.tapeSize) (hm : s.moves = []) (hb : s.busy = none)
    (hp : s.pending = [.run]) :
    ∃ u, step s = .next u ∧ step u = .next { s with pending := [], responses := s.responses ++ [.run r] } := by
  have hstarted : (s.setPending []).startRun.FinalWith r := hfinal
  obtain ⟨hrun, -⟩ := step_answers_of_finalWith hstarted h0 (.inl ⟨hm, rfl⟩)
  refine ⟨_, step_of_run_command h0 hm hb hp, (hrun hb rfl (Nat.succ_pos _)).trans ?_⟩
  rw [← hm]
  rfl

end

/-- Settles O44: with the latch set a state is final, with result Error. -/
theorem latchedStepAnswersError : Obligations.LatchedStepAnswersError :=
  ⟨fun _ herr => stepper_answers_of_finalWith (.inl ⟨herr, rfl⟩),
   fun _ _ h0 hm herr => step_answers_of_finalWith (.inl ⟨herr, rfl⟩) h0 hm,
   fun _ h0 hm hb hp herr => run_command_answered_of_finalWith (.inl ⟨herr, rfl⟩) h0 hm hb hp⟩

/-- Settles O45: with the latch clear and `ip` at or past `PSIZE` a state is final, with result Halt. -/
theorem exhaustedStepAnswersHalt : Obligations.ExhaustedStepAnswersHalt :=
  ⟨fun _ herr hip => stepper_answers_of_finalWith (.inr ⟨herr, hip, rfl⟩),
   fun _ _ h0 hm herr hip => step_answers_of_finalWith (.inr ⟨herr, hip, rfl⟩) h0 hm,
   fun _ h0 hm hb hp herr hip => run_command_answered_of_finalWith (.inr ⟨herr, hip, rfl⟩) h0 hm hb hp⟩

/-! ### NOP and the loading aid -/

/-- Settles O25: `opcodeBytes` lists the same eight bytes, and NOP is `advance`. -/
theorem nopOnlyAdvances : Obligations.NopOnlyAdvances := by
  refine ⟨fun b => ?_, fun _ _ => rfl⟩
  have hperm : opcodeBytes.Perm [0x2B, 0x2C, 0x2D, 0x2E, 0x3C, 0x3E, 0x5B, 0x5D] := by decide
  rw [decodeByte_eq_nop_iff, hperm.mem_iff]

theorem decodeTableWord_eq_some {nbits w : Nat} {i : Instr} (h : decodeTableWord nbits w = some i) :
    i = decodeByte (tableByte nbits w) := by
  unfold decodeTableWord at h
  split at h
  · simp at h
  · simpa [decode] using h.symm

theorem State.fetch_withFetchWord {s : State} (hprog : s.prog.wf) (nbits w : Nat) :
    (s.withFetchWord nbits w).fetch (s.withFetchWord nbits w).ip = tableByte nbits w :=
  Memory.read_write_same hprog s.ip (tableByte nbits w)

/-- Settles O56: `withFetchWord` puts a RUN in progress, with the word's byte at `ip` and `PSIZE` past it. -/
theorem fetchWordRunsNext : Obligations.FetchWordRunsNext := by
  intro s nbits w i h0 hprog hdecode
  have hruns : 0 < (s.withFetchWord nbits w).runs := lt_max_iff.mpr (.inr Nat.one_pos)
  have hip : (s.withFetchWord nbits w).ip < (s.withFetchWord nbits w).psize := lt_max_iff.mpr (.inr s.ip.lt_succ_self)
  calc step (s.withFetchWord nbits w)
    _ = stepper .run (s.withFetchWord nbits w) :=
      step_eq_stepper h0 rfl (State.startsStep_run rfl rfl hruns)
    _ = settleResult .run (exec i (s.withFetchWord nbits w)) := by
      rw [stepper_of_running rfl hip, State.fetch_withFetchWord hprog, decodeTableWord_eq_some hdecode]

end Sys2Proof.Machine
end

section
/-! SUPPORT. Consistency (`40_sequencer.md` R90, `Inv`): its part about the configuration and the six rows of
`10_state.md` R20 is kept by every instruction; its part about the transfer in progress says when a step waits. -/

namespace Sys2Proof.Machine

/-! ### The two parts of `Inv` -/

/-- The part of `Inv` that speaks of the configuration and the architectural state. -/
structure Arch.Inv (a : Arch) (c : Config) : Prop where
  tapeSize_pos : 0 < c.tapeSize
  tape_wf      : a.tape.wf
  tape_below   : a.tape.below c.tapeSize
  dp_lt        : a.dp < c.tapeSize
  prog_wf      : a.prog.wf
  prog_below   : a.prog.below a.psize
  ip_le        : a.ip ≤ a.psize
  psize_le     : a.psize ≤ c.progCapacity

theorem State.Inv.arch {s : State} (h : s.Inv) : s.arch.Inv s.cfg := { h with }

/-- Between steps consistency says nothing more than its part about the architectural state. -/
theorem State.inv_of_idle {s : State} (h : s.arch.Inv s.cfg) (hport : s.port = .idle) (hbusy : s.busy = none) :
    s.Inv :=
  { h with
    wait := by simp [State.WaitConsistent, hport, hbusy]
    run_waits := by simp [hbusy] }

theorem State.Inv.offering {s : State} {v : Byte} (h : s.Inv) (hport : s.port = .offering v) :
    s.busy ≠ none ∧ s.err = false ∧ s.ip < s.psize ∧ decodeByte (s.fetch s.ip) = .out ∧ v = s.cell := by
  simpa only [State.WaitConsistent, hport] using h.wait

theorem State.Inv.awaiting {s : State} (h : s.Inv) (hport : s.port = .awaiting) :
    s.busy ≠ none ∧ s.err = false ∧ s.ip < s.psize ∧ decodeByte (s.fetch s.ip) = .inp := by
  simpa only [State.WaitConsistent, hport] using h.wait

/-- A transfer is in progress only while a step waits for it, and that step is an OUT or an IN inside the program. -/
theorem State.Inv.waits_of_port_ne_idle {s : State} (h : s.Inv) (hport : s.port ≠ .idle) :
    s.busy ≠ none ∧ s.err = false ∧ s.ip < s.psize ∧
      (decodeByte (s.fetch s.ip) = .out ∨ decodeByte (s.fetch s.ip) = .inp) := by
  cases hp : s.port with
  | idle => exact absurd hp hport
  | offering v =>
    obtain ⟨hbusy, herr, hip, hout, -⟩ := h.offering hp
    exact ⟨hbusy, herr, hip, .inl hout⟩
  | awaiting =>
    obtain ⟨hbusy, herr, hip, hinp⟩ := h.awaiting hp
    exact ⟨hbusy, herr, hip, .inr hinp⟩

theorem State.Inv.port_of_not_busy {s : State} (h : s.Inv) (hbusy : s.busy = none) : s.port = .idle := by
  by_contra hne
  obtain ⟨hwaits, -⟩ := h.waits_of_port_ne_idle hne
  exact hwaits hbusy

theorem State.Inv.port_of_finalWith {s : State} {r : StepResult} (h : s.Inv) (hfinal : s.FinalWith r) :
    s.port = .idle := by
  by_contra hne
  obtain ⟨-, herr, hip, -⟩ := h.waits_of_port_ne_idle hne
  obtain ⟨hlatched, -⟩ | ⟨-, hend, -⟩ := hfinal
  · simp [herr] at hlatched
  · omega

theorem State.Inv.setPending {s : State} (h : s.Inv) (cs : List Command) : (s.setPending cs).Inv := { h with }

theorem State.Inv.setMoves {s : State} (h : s.Inv) (ms : List HostMove) : (s.setMoves ms).Inv := { h with }

/-! ### What an instruction does to each part -/

theorem scanUp_range {m : Memory} {n depth j k : Nat} (h : scanUp m n depth j = some k) : j ≤ k ∧ k < j + n := by
  induction n generalizing depth j with
  | zero => simp [scanUp] at h
  | succ n ih =>
    simp only [scanUp] at h
    split at h
    · obtain rfl : j = k := by simpa using h
      omega
    · have := ih h
      omega

theorem scanDown_lt {m : Memory} {j depth k : Nat} (h : scanDown m j depth = some k) : k < j := by
  induction j generalizing depth with
  | zero => simp [scanDown] at h
  | succ j ih =>
    simp only [scanDown] at h
    split at h
    · obtain rfl : j = k := by simpa using h
      omega
    · exact (ih h).trans (Nat.lt_succ_self j)

theorem State.scanForward_lt {s : State} {a m : Nat} (h : s.scanForward a = some m) : m < s.psize := by
  have := scanUp_range h
  omega

theorem State.scanBackward_lt {s : State} {a m : Nat} (h : s.scanBackward a = some m) : m < a :=
  scanDown_lt h

/-- A branch to an address of the program, or one that raises, keeps `ip` in range. -/
theorem State.branch_ip_le {s : State} {o : Option Nat} (hip : s.ip ≤ s.psize) (ho : ∀ m, o = some m → m < s.psize) :
    (s.branch o).ip ≤ s.psize := by
  obtain ⟨m, hm, hbranch⟩ | ⟨-, hbranch⟩ := s.branch_cases o
  · simpa [hbranch] using ho m hm
  · simpa [hbranch] using hip

/-- An instruction inside the program leaves `ip` at most one past its end. -/
theorem exec_keeps_ip_le {i : Instr} {s t : State} (hip : s.ip < s.psize) (h : exec i s = .next t) :
    t.ip ≤ s.psize := by
  rcases exec_next_cases h with
    ⟨-, rfl⟩ | ⟨-, rfl⟩ | ⟨-, -, rfl⟩ | ⟨-, -, rfl⟩ | ⟨-, -, -, rfl⟩ | ⟨-, -, -, rfl⟩ | ⟨-, -, rfl⟩ |
    ⟨-, -, x, rest, -, rfl⟩ | ⟨-, -, -, rfl⟩ | ⟨-, -, -, rfl⟩ | ⟨-, -, -, rfl⟩ | ⟨-, -, -, -, rfl⟩ | ⟨b, -, rfl⟩
  -- the two branches after a scan
  on_goal 9 => exact State.branch_ip_le hip.le fun m hm => State.scanForward_lt hm
  on_goal 11 => exact State.branch_ip_le hip.le fun m hm => (State.scanBackward_lt hm).trans hip
  all_goals simp; omega

/-- At most the current cell is written, and it exists. -/
theorem exec_keeps_tape_canonical {i : Instr} {s t : State} (hs : s.arch.Inv s.cfg) (h : exec i s = .next t) :
    t.tape.wf ∧ t.tape.below s.cfg.tapeSize := by
  obtain ⟨-, htape⟩ | ⟨-, -, v, htape⟩ | ⟨-, htape⟩ := exec_dp_tape_cases h <;> rw [htape]
  · exact ⟨hs.tape_wf, hs.tape_below⟩
  · exact ⟨Memory.write_wf hs.tape_wf _ _, Memory.write_below hs.tape_below hs.dp_lt _⟩
  · exact ⟨hs.tape_wf, hs.tape_below⟩

theorem exec_keeps_arch_inv {i : Instr} {s t : State} (hs : s.arch.Inv s.cfg) (hip : s.ip < s.psize)
    (h : exec i s = .next t) : t.arch.Inv t.cfg := by
  obtain ⟨hprog, hpsize, -⟩ := exec_keepsProgramAndLatch h
  obtain ⟨hwf, hbelow⟩ := exec_keeps_tape_canonical hs h
  rw [State.arch, exec_keeps_cfg h, hprog, hpsize]
  exact { hs with
    tape_wf := hwf
    tape_below := hbelow
    dp_lt := exec_keeps_dp_lt hs.dp_lt h
    ip_le := exec_keeps_ip_le hip h }

@[simp] theorem State.branch_port (s : State) (o : Option Nat) : (s.branch o).port = s.port := by
  cases o <;> simp [State.branch]

/-- Only OUT and IN touch the transfer: they end it, or they wait and change nothing else. -/
theorem exec_port_cases {i : Instr} {s t : State} (h : exec i s = .next t) :
    t.port = .idle ∨ (i = .out ∧ t = s.waitOffering s.cell) ∨ (i = .inp ∧ t = s.waitAwaiting) ∨
    (i ≠ .out ∧ i ≠ .inp ∧ t.port = s.port) := by
  rcases exec_next_cases h with
    ⟨rfl, rfl⟩ | ⟨rfl, rfl⟩ | ⟨rfl, -, rfl⟩ | ⟨rfl, -, rfl⟩ | ⟨-, -, -, rfl⟩ | ⟨hi, -, -, ht⟩ | ⟨hi, -, ht⟩ |
    ⟨-, -, x, rest, -, rfl⟩ | ⟨rfl, -, -, rfl⟩ | ⟨rfl, -, -, rfl⟩ | ⟨rfl, -, -, rfl⟩ | ⟨rfl, -, -, -, rfl⟩ |
    ⟨b, rfl, rfl⟩
  on_goal 5 => exact .inl rfl
  on_goal 5 => exact .inr (.inl ⟨hi, ht⟩)
  on_goal 5 => exact .inr (.inr (.inl ⟨hi, ht⟩))
  on_goal 5 => exact .inl rfl
  all_goals exact .inr (.inr (.inr ⟨by simp, by simp, by simp⟩))

/-! ### Every layer keeps `Inv` -/

theorem State.settle_busy_of_idle {s : State} {who : Issuer} (h : s.port = .idle) : (s.settle who).busy = none := by
  obtain ⟨hne, -⟩ | ⟨-, -, hsettle⟩ | ⟨-, -, hsettle⟩ := s.settle_cases who
  · exact absurd h hne
  · simp [hsettle]
  · simp [hsettle]

@[simp] theorem State.settle_arch (s : State) (who : Issuer) : (s.settle who).arch = s.arch := by
  simp [State.arch]

/-- An instruction from a consistent state either leaves no transfer in progress or waits for its own. -/
theorem exec_port_cases_of_inv {s t : State} (hs : s.Inv) (h : exec (decodeByte (s.fetch s.ip)) s = .next t) :
    t.port = .idle ∨
    (decodeByte (s.fetch s.ip) = .out ∧ t = s.waitOffering s.cell) ∨
    (decodeByte (s.fetch s.ip) = .inp ∧ t = s.waitAwaiting) := by
  obtain hidle | hout | hinp | ⟨hno, hni, hport⟩ := exec_port_cases h
  · exact .inl hidle
  · exact .inr (.inl hout)
  · exact .inr (.inr hinp)
  · -- a transfer in progress belongs to an OUT or an IN
    refine .inl (hport.trans ?_)
    by_contra hne
    obtain ⟨-, -, -, hout | hinp⟩ := hs.waits_of_port_ne_idle hne
    · exact hno hout
    · exact hni hinp

/-- A step that ends with a result leaves no wait behind. -/
theorem State.Inv.answer {s : State} {r : StepResult} (hs : s.Inv) (hfinal : s.FinalWith r) (who : Issuer) :
    (s.answer who r).Inv :=
  State.inv_of_idle (by simpa using hs.arch) (by simpa using hs.port_of_finalWith hfinal) (State.answer_busy s who r)

theorem stepper_keeps_inv {who : Issuer} {s t : State} (hs : s.Inv) (hruns : who = .run → 0 < s.runs)
    (h : stepper who s = .next t) : t.Inv := by
  obtain ⟨r, hfinal, rfl⟩ | ⟨herr, hip, u, hu, rfl⟩ := stepper_next_final_or_runs h
  · exact hs.answer hfinal who
  · have harch : (u.settle who).arch.Inv (u.settle who).cfg := by simpa using exec_keeps_arch_inv hs.arch hip hu
    obtain hidle | ⟨hout, rfl⟩ | ⟨hinp, rfl⟩ := exec_port_cases_of_inv hs hu
    · exact State.inv_of_idle harch (by simpa using hidle) (State.settle_busy_of_idle hidle)
    · exact { harch with
        wait := ⟨Option.some_ne_none who, herr, hip, hout, rfl⟩
        run_waits := fun hbusy => hruns (Option.some.inj hbusy) }
    · exact { harch with
        wait := ⟨Option.some_ne_none who, herr, hip, hinp⟩
        run_waits := fun hbusy => hruns (Option.some.inj hbusy) }

/-- A step starts from a consistent state, and one of a RUN while a RUN is in progress. -/
theorem State.StartsStep.inv {s u : State} {who : Issuer} (h : s.StartsStep u who) (hs : s.Inv) :
    u.Inv ∧ (who = .run → 0 < u.runs) := by
  obtain ⟨hbusy, rfl⟩ | ⟨-, rfl, rest, -, rfl⟩ | ⟨-, rfl, -, hruns, rfl⟩ := h
  · exact ⟨hs, fun hwho => hs.run_waits (hwho ▸ hbusy)⟩
  · exact ⟨hs.setPending rest, by simp⟩
  · exact ⟨hs, fun _ => hruns⟩

/-- LOAD of a program that fits keeps the tape and puts both pointers at 0 (`70_reset_and_hazards.md` R204, R205). -/
theorem State.replaceProgram_arch_inv {s : State} (h : s.arch.Inv s.cfg) {q : List Byte}
    (hfit : q.length ≤ s.cfg.progCapacity) : (s.replaceProgram q).arch.Inv s.cfg where
  tapeSize_pos := h.tapeSize_pos
  tape_wf := h.tape_wf
  tape_below := h.tape_below
  dp_lt := h.tapeSize_pos
  prog_wf := Memory.ofBytes_wf 0 q
  prog_below := Memory.ofBytes_below q
  ip_le := Nat.zero_le _
  psize_le := hfit

theorem State.Inv.load {s : State} (h : s.Inv) (hbusy : s.busy = none) (q : List Byte) : (s.load q).Inv := by
  have harch : (s.load q).arch.Inv (s.load q).cfg := by
    obtain ⟨-, hfail⟩ | ⟨hfit, hload⟩ := s.load_cases q
    · exact hfail ▸ h.arch
    · exact hload ▸ State.replaceProgram_arch_inv h.arch hfit
  exact State.inv_of_idle harch (by simpa using h.port_of_not_busy hbusy) (by simpa using hbusy)

theorem engineMove_keeps_inv {s t : State} (hs : s.Inv) (h : engineMove s = .next t) : t.Inv := by
  obtain ⟨who, u, hstart, hstep⟩ | ⟨hb, q, rest, -, rfl⟩ | ⟨hb, rest, -, rfl⟩ | ⟨-, rest, -, rfl⟩ | ⟨-, -, -, rfl⟩ :=
    engineMove_next_cases h
  · obtain ⟨hu, hruns⟩ := hstart.inv hs
    exact stepper_keeps_inv hu hruns hstep
  · exact (hs.setPending rest).load hb q
  · exact State.inv_of_idle hs.arch (hs.port_of_not_busy hb) hb
  · exact { hs with }
  · exact hs

theorem State.resetEngine_arch_inv {s : State} (h0 : 0 < s.cfg.tapeSize) : s.resetEngine.arch.Inv s.cfg where
  tapeSize_pos := h0
  tape_wf := Memory.wf_nil
  tape_below := List.forall_mem_nil _
  dp_lt := h0
  prog_wf := Memory.wf_nil
  prog_below := List.forall_mem_nil _
  ip_le := Nat.le_refl 0
  psize_le := Nat.zero_le _

theorem State.resetEngine_inv {s : State} (h0 : 0 < s.cfg.tapeSize) : s.resetEngine.Inv :=
  State.inv_of_idle (State.resetEngine_arch_inv h0) rfl rfl

theorem HostMove.apply_keeps_inv (m : HostMove) {s : State} (hs : s.Inv) : (m.apply s).Inv := by
  cases m with
  | reset => exact State.resetEngine_inv hs.tapeSize_pos
  | pause | command c | offer x | setTaking b => exact { hs with }

/-- Settles O10: host moves, commands and steps of the Stepper each keep `Inv`. -/
theorem stepKeepsConsistency : Obligations.StepKeepsConsistency := by
  intro s t hs h
  obtain ⟨-, ⟨m, rest, -, -, rfl⟩ | ⟨ms, -, hmove⟩⟩ := step_next_cases h
  · exact m.apply_keeps_inv (hs.setMoves rest)
  · exact engineMove_keeps_inv (hs.setMoves ms) hmove

/-- The state right after reset is its own RESET, and its latch is clear. -/
theorem State.resetWith_consistent {c : Config} (h0 : 0 < c.tapeSize) :
    (State.resetWith c).Inv ∧ (State.resetWith c).ErrorCause :=
  ⟨State.resetEngine_inv (s := State.resetWith c) h0, fun herr => absurd herr (by simp [State.resetWith])⟩

/-- Settles O9: the reference configuration is one of those with a tape cell. -/
theorem resetIsConsistent : Obligations.ResetIsConsistent := by
  obtain ⟨hinv, hcause⟩ := State.resetWith_consistent (c := referenceConfig) (by decide)
  exact ⟨hinv, hcause, fun _ => State.resetWith_consistent⟩

end Sys2Proof.Machine
end

section
/-! SUPPORT. Unserved waits (`40_sequencer.md` R92): a step that waits is tried again by every engine move, and until
the host serves its port it finds the state that it leaves. -/

namespace Sys2Proof.Machine

/-- The instruction of an unserved wait finds the transfer in progress that it leaves. -/
theorem exec_of_unserved {s : State} (hs : s.Inv)
    (hwait : (s.port = .awaiting ∧ s.input = []) ∨ ((∃ v, s.port = .offering v) ∧ s.taking = false)) :
    exec (decodeByte (s.fetch s.ip)) s = .next s := by
  obtain ⟨hport, hin⟩ | ⟨⟨v, hport⟩, htaking⟩ := hwait
  · obtain ⟨-, -, -, hinp⟩ := hs.awaiting hport
    rw [hinp, exec_inp_of_no_item hin, State.waitAwaiting, ← hport]
  · obtain ⟨-, -, -, hout, rfl⟩ := hs.offering hport
    rw [hout, exec_out_of_not_taking hs.dp_lt htaking, State.waitOffering, ← hport]

/-! ### The machine step -/

/-- A step in progress whose instruction changes nothing stays in progress, and nothing changes. -/
theorem stepper_of_fixed {s : State} {who : Issuer} (herr : s.err = false) (hip : s.ip < s.psize)
    (hport : s.port ≠ .idle) (hbusy : s.busy = some who) (hexec : exec (decodeByte (s.fetch s.ip)) s = .next s) :
    stepper who s = .next s := by
  rw [stepper_of_running herr hip, hexec, settleResult, State.settle_of_waiting hport, State.keepWaiting, ← hbusy]

theorem step_of_unserved {s : State} (hs : s.Inv) (hm : s.moves = [])
    (hwait : (s.port = .awaiting ∧ s.input = []) ∨ ((∃ v, s.port = .offering v) ∧ s.taking = false)) :
    step s = .next s := by
  have hport : s.port ≠ .idle := by
    obtain ⟨hport, -⟩ | ⟨⟨v, hport⟩, -⟩ := hwait <;> simp [hport]
  obtain ⟨hwaits, herr, hip, -⟩ := hs.waits_of_port_ne_idle hport
  obtain ⟨who, hbusy⟩ := Option.ne_none_iff_exists'.mp hwaits
  rw [step_eq_engineMove hs.tapeSize_pos hm, engineMove_of_busy hbusy]
  exact stepper_of_fixed herr hip hport hbusy (exec_of_unserved hs hwait)

/-- A state that a machine step does not change is left by no number of them. -/
theorem run_of_fixed {M : Host.Core} {s : M.State} (h : M.step s = .next s) (k : Nat) : M.run k s = .next s := by
  induction k with
  | zero => rfl
  | succ k ih => rw [run_succ_of_next k h, ih]

/-- Settles O31: an unserved wait is a fixed point of the machine step. -/
theorem unservedWaitLastsForever : Obligations.UnservedWaitLastsForever :=
  fun k _ hs hm hwait => run_of_fixed (M := Sys2Proof.core) (step_of_unserved hs hm hwait) k

end Sys2Proof.Machine
end

section
/-! SUPPORT. The Driver (`40_sequencer.md` R86 to R91): how STEP and RUN go on after an instruction, how a RUN ends, and
what a final state keeps. -/

namespace Sys2Proof.Machine

/-! ### What an instruction leaves of the commands -/

/-- From `s` to `t` no command is taken, started or answered, and the host's coming moves stay. -/
structure State.KeepsCommands (s t : State) : Prop where
  busy      : t.busy = s.busy
  runs      : t.runs = s.runs
  pending   : t.pending = s.pending
  moves     : t.moves = s.moves
  responses : t.responses = s.responses

theorem State.branch_keepsCommands (s : State) (o : Option Nat) : s.KeepsCommands (s.branch o) := by
  cases o <;> exact ⟨rfl, rfl, rfl, rfl, rfl⟩

theorem exec_keepsCommands {i : Instr} {s t : State} (h : exec i s = .next t) : s.KeepsCommands t := by
  rcases exec_next_cases h with
    ⟨-, rfl⟩ | ⟨-, rfl⟩ | ⟨-, -, rfl⟩ | ⟨-, -, rfl⟩ | ⟨-, -, -, rfl⟩ | ⟨-, -, -, rfl⟩ | ⟨-, -, rfl⟩ |
    ⟨-, -, x, rest, -, rfl⟩ | ⟨-, -, -, rfl⟩ | ⟨-, -, -, rfl⟩ | ⟨-, -, -, rfl⟩ | ⟨-, -, -, -, rfl⟩ | ⟨b, -, rfl⟩
  -- the two branches after a scan
  on_goal 9 => exact s.branch_keepsCommands _
  on_goal 11 => exact s.branch_keepsCommands _
  all_goals exact ⟨rfl, rfl, rfl, rfl, rfl⟩

theorem State.branch_eq_raiseUnmatched {s : State} {o : Option Nat} (herr : s.err = false)
    (hraised : (s.branch o).err = true) : s.branch o = s.raiseUnmatched := by
  obtain ⟨m, -, hbranch⟩ | ⟨-, hbranch⟩ := s.branch_cases o
  · simp [hbranch, herr] at hraised
  · exact hbranch

/-- An instruction that sets the latch does nothing else (`60_exceptions.md` R171). -/
theorem exec_eq_raiseUnmatched {i : Instr} {s t : State} (h : exec i s = .next t) (herr : s.err = false)
    (hraised : t.err = true) : t = s.raiseUnmatched := by
  rcases exec_next_cases h with
    ⟨-, rfl⟩ | ⟨-, rfl⟩ | ⟨-, -, rfl⟩ | ⟨-, -, rfl⟩ | ⟨-, -, -, rfl⟩ | ⟨-, -, -, rfl⟩ | ⟨-, -, rfl⟩ |
    ⟨-, -, x, rest, -, rfl⟩ | ⟨-, -, -, rfl⟩ | ⟨-, -, -, rfl⟩ | ⟨-, -, -, rfl⟩ | ⟨-, -, -, -, rfl⟩ | ⟨b, -, rfl⟩
  -- the two branches after a scan
  on_goal 9 => exact State.branch_eq_raiseUnmatched herr hraised
  on_goal 11 => exact State.branch_eq_raiseUnmatched herr hraised
  all_goals simp [herr] at hraised

/-! ### Continue, and Halt after the last instruction -/

/-- A step whose instruction neither waits nor raises ends with Continue. -/
theorem stepper_continues {s u : State} (herr : s.err = false) (hip : s.ip < s.psize)
    (hexec : exec (decodeByte (s.fetch s.ip)) s = .next u) (hport : u.port = .idle) (hu : u.err = false)
    (who : Issuer) : stepper who s = .next (u.answer who .cont) := by
  rw [stepper_of_running herr hip, hexec, settleResult, State.settle_of_completed hport hu]

theorem State.StartsStep.finalWith_iff {s u : State} {who : Issuer} {r : StepResult} (h : s.StartsStep u who) :
    u.FinalWith r ↔ s.FinalWith r := by
  obtain ⟨-, rfl⟩ | ⟨-, -, rest, -, rfl⟩ | ⟨-, -, -, -, rfl⟩ := h <;> exact Iff.rfl

theorem State.status_eq_error (s : State) (herr : s.err = true) : s.status = 0b10 := by
  obtain ⟨herror, -⟩ := statusCodesTheState s
  exact herror.mpr herr

theorem State.status_eq_halted (s : State) (herr : s.err = false) (hip : s.psize ≤ s.ip) : s.status = 0b01 := by
  obtain ⟨-, hhalted, -⟩ := statusCodesTheState s
  exact hhalted.mpr ⟨herr, hip⟩

/-- At the end of the program STATUS reads HALTED, and a step answers Halt. -/
theorem State.halts_of_ip_eq {s : State} (herr : s.err = false) (hend : s.ip = s.psize) :
    s.status = 0b01 ∧ s.FinalWith .halt :=
  ⟨s.status_eq_halted herr hend.ge, .inr ⟨herr, hend.ge, rfl⟩⟩

theorem step_halts_of_ip_eq {s u : State} {who : Issuer} (h0 : 0 < s.cfg.tapeSize) (hm : s.moves = [])
    (herr : s.err = false) (hend : s.ip = s.psize) (hstart : s.StartsStep u who) :
    s.status = 0b01 ∧ step s = .next (u.answer who .halt) := by
  obtain ⟨hstatus, hfinal⟩ := State.halts_of_ip_eq herr hend
  rw [step_eq_stepper h0 hm hstart]
  exact ⟨hstatus, stepper_of_finalWith (hstart.finalWith_iff.mpr hfinal) who⟩

/-- Settles O46: the instruction's state answers Continue; with `ip = PSIZE` it is final with Halt. -/
theorem lastInstructionContinues : Obligations.LastInstructionContinues := by
  refine ⟨?stepper, ?steps, ?run⟩
  case stepper =>
    intro s u herr hip hexec hport hu
    obtain ⟨-, -, -, -, hresp⟩ := exec_keepsCommands hexec
    refine ⟨u.answer .step .cont, stepper_continues herr hip hexec hport hu .step, by simp, by simp [hresp],
      fun hend => ?_⟩
    obtain ⟨hstatus, hfinal⟩ := State.halts_of_ip_eq (by simpa using hu) hend
    exact ⟨hstatus, _, stepper_of_finalWith hfinal .step, by simp, by simp⟩
  case steps =>
    intro s u rest h0 hm hb hp herr hip hexec hport hu
    obtain ⟨-, -, hpending, hmoves, hresp⟩ := exec_keepsCommands hexec
    have hfirst : step s = .next (u.answer .step .cont) :=
      (step_eq_stepper h0 hm (State.startsStep_step hb hp)).trans
        (stepper_continues (s := s.setPending (.step :: rest)) herr hip hexec hport hu .step)
    refine ⟨u.answer .step .cont, hfirst, by simp, by simp [hresp], fun hend => ?_⟩
    have hstart : (u.answer .step .cont).StartsStep ((u.answer .step .cont).setPending rest) .step :=
      State.startsStep_step (by simp) (by simp [hpending])
    obtain ⟨hstatus, hsecond⟩ := step_halts_of_ip_eq (by simpa [exec_keeps_cfg hexec] using h0)
      (by simpa [hmoves] using hm) (by simpa using hu) hend hstart
    exact ⟨hstatus, _, hsecond, State.answer_arch .., by simp⟩
  case run =>
    intro s u h0 hm hb hp hr herr hip hexec hport hu
    obtain ⟨-, hruns, hpending, hmoves, hresp⟩ := exec_keepsCommands hexec
    have hfirst : step s = .next (u.answer .run .cont) :=
      (step_eq_stepper h0 hm (State.startsStep_run hb hp hr)).trans
        (stepper_continues herr hip hexec hport hu .run)
    refine ⟨u.answer .run .cont, hfirst, by simp, by simp [hresp], by simp [hruns], fun hend => ?_⟩
    have hstart : (u.answer .run .cont).StartsStep (u.answer .run .cont) .run :=
      State.startsStep_run (by simp) (by simpa [hpending] using hp) (by simpa [hruns] using hr)
    obtain ⟨hstatus, hsecond⟩ := step_halts_of_ip_eq (by simpa [exec_keeps_cfg hexec] using h0)
      (by simpa [hmoves] using hm) (by simpa using hu) hend hstart
    exact ⟨hstatus, _, hsecond, State.answer_arch .., rfl⟩

/-! ### Final states -/

/-- STATUS is read off the architectural state. -/
theorem State.SameEngine.status_eq {s t : State} (h : s.SameEngine t) : t.status = s.status := by
  obtain ⟨harch, -⟩ := h
  simp only [State.arch, Arch.mk.injEq] at harch
  obtain ⟨-, -, -, hpsize, hip, herr⟩ := harch
  rw [State.status, State.status, hpsize, hip, herr]

theorem State.finalWith_of_status {s : State} (h : s.status ≠ 0b00) : ∃ r, s.FinalWith r := by
  obtain ⟨herr, -⟩ | ⟨herr, hip, -⟩ | ⟨-, -, hready⟩ := s.status_cases
  · exact ⟨_, .inl ⟨herr, rfl⟩⟩
  · exact ⟨_, .inr ⟨herr, hip, rfl⟩⟩
  · exact absurd hready h

theorem State.FinalWith.answer {s : State} {r : StepResult} (h : s.FinalWith r) (who : Issuer) (r' : StepResult) :
    (s.answer who r').FinalWith r := by
  simpa [State.FinalWith] using h

theorem State.sameEngine_answer (s : State) (who : Issuer) (r : StepResult) : s.SameEngine (s.answer who r) :=
  ⟨by simp, by simp, by simp, by simp⟩

theorem State.StartsStep.sameEngine_iff {s u t : State} {who : Issuer} (h : s.StartsStep u who) :
    u.SameEngine t ↔ s.SameEngine t := by
  obtain ⟨-, rfl⟩ | ⟨-, -, rest, -, rfl⟩ | ⟨-, -, -, -, rfl⟩ := h <;> exact Iff.rfl

theorem engineMove_of_finalWith_sameEngine {s t : State} {r : StepResult} (hfinal : s.FinalWith r)
    (hload : s.busy = none → ∀ q, s.pending.head? ≠ some (.load q)) (h : engineMove s = .next t) :
    s.SameEngine t := by
  obtain ⟨who, u, hstart, hstep⟩ | ⟨hb, q, rest, hp, -⟩ | ⟨-, rest, -, rfl⟩ | ⟨-, rest, -, rfl⟩ | ⟨-, -, -, rfl⟩ :=
    engineMove_next_cases h
  case inl =>
    obtain rfl : u.answer who r = t := by simpa [stepper_of_finalWith (hstart.finalWith_iff.mpr hfinal)] using hstep
    exact hstart.sameEngine_iff.mp (u.sameEngine_answer who r)
  case inr.inl => exact absurd (by simp [hp]) (hload hb q)
  all_goals exact ⟨rfl, rfl, rfl, rfl⟩

/-- A STEP answers with its result, a RUN only with a final one, after which one RUN fewer is counted. -/
theorem State.answer_responses_cases (s : State) (who : Issuer) (r : StepResult) :
    (who = .step ∧ (s.answer who r).responses = s.responses ++ [.step r]) ∨
    (who = .run ∧ r = .cont ∧ (s.answer who r).responses = s.responses) ∨
    (who = .run ∧ r ≠ .cont ∧ (s.answer who r).responses = s.responses ++ [.run r] ∧
      (s.answer who r).runs = s.runs - 1) := by
  cases who with
  | step => exact .inl ⟨rfl, s.answer_step_responses r⟩
  | run =>
    by_cases hr : r = .cont
    · exact .inr (.inl ⟨rfl, hr, by rw [hr, State.answer_run_cont_responses]⟩)
    · exact .inr (.inr ⟨rfl, hr, by rw [State.answer_run_end s hr], by rw [State.answer_run_end s hr]⟩)

theorem State.answer_step_of_responses {s : State} {who : Issuer} {r r' : StepResult}
    (h : (s.answer who r).responses = s.responses ++ [.step r']) : r = r' := by
  obtain ⟨-, hstep⟩ | ⟨-, -, hrun⟩ | ⟨-, -, hrun, -⟩ := s.answer_responses_cases who r
  · simpa [hstep] using h
  · simp [hrun] at h
  · simp [hrun] at h

theorem State.answer_run_of_responses {s : State} {who : Issuer} {r r' : StepResult}
    (h : (s.answer who r).responses = s.responses ++ [.run r']) :
    who = .run ∧ r = r' ∧ r ≠ .cont ∧ (s.answer who r).runs = s.runs - 1 := by
  obtain ⟨-, hstep⟩ | ⟨-, -, hrun⟩ | ⟨hwho, hne, hrun, hruns⟩ := s.answer_responses_cases who r
  · simp [hstep] at h
  · simp [hrun] at h
  · exact ⟨hwho, by simpa [hrun] using h, hne, hruns⟩

/-- Settles O47: a step in a final state only answers, and what is final is read off the architectural state. -/
theorem finalStatesAreStable : Obligations.FinalStatesAreStable := by
  refine ⟨fun s t who hstatus h => ?_, fun s t hstatus hpause hload h => ?_⟩
  · obtain ⟨r, hfinal⟩ := State.finalWith_of_status hstatus
    obtain rfl : s.answer who r = t := by simpa [stepper_of_finalWith hfinal] using h
    have hsame := s.sameEngine_answer who r
    refine ⟨hsame, hsame.status_eq, fun r' hresp => ?_⟩
    obtain rfl := State.answer_step_of_responses hresp
    exact ⟨_, stepper_of_finalWith (hfinal.answer who r) .step, State.answer_step_responses _ r⟩
  · obtain ⟨r, hfinal⟩ := State.finalWith_of_status hstatus
    obtain ⟨-, ⟨m, rest, hne, hm, -⟩ | ⟨ms, -, hmove⟩⟩ := step_next_cases h
    · exact absurd hpause (by simp [hm, hne])
    · have hsame : s.SameEngine t := engineMove_of_finalWith_sameEngine (s := s.setMoves ms) hfinal hload hmove
      exact ⟨hsame, hsame.status_eq⟩

/-! ### The end of a RUN -/

/-- An answer to a RUN comes from a step of that RUN that keeps `ip` and leaves the state final with that answer. -/
theorem stepper_answers_run {who : Issuer} {s t : State} {r : StepResult} (h : stepper who s = .next t)
    (hresp : t.responses = s.responses ++ [.run r]) :
    who = .run ∧ t.runs = s.runs - 1 ∧ t.ip = s.ip ∧ t.FinalWith r := by
  obtain ⟨r', hfinal, rfl⟩ | ⟨herr, -, u, hu, rfl⟩ := stepper_next_final_or_runs h
  · obtain ⟨hwho, rfl, -, hruns⟩ := State.answer_run_of_responses hresp
    exact ⟨hwho, hruns, by simp, hfinal.answer who _⟩
  · obtain ⟨-, huruns, -, -, huresp⟩ := exec_keepsCommands hu
    rw [← huresp] at hresp
    obtain ⟨-, hsettle⟩ | ⟨-, huerr, hsettle⟩ | ⟨-, -, hsettle⟩ := u.settle_cases who <;> rw [hsettle] at hresp ⊢
    · -- the step waits
      simp at hresp
    · -- the instruction has set the latch
      obtain ⟨hwho, rfl, -, hruns⟩ := State.answer_run_of_responses hresp
      have hip : u.ip = s.ip := by rw [exec_eq_raiseUnmatched hu herr huerr, State.raiseUnmatched_ip]
      have hfinal : u.FinalWith .error := .inl ⟨huerr, rfl⟩
      exact ⟨hwho, huruns ▸ hruns, by simpa using hip, hfinal.answer who _⟩
    · -- Continue is no answer of a RUN
      obtain ⟨-, -, hne, -⟩ := State.answer_run_of_responses hresp
      exact absurd rfl hne

@[simp] theorem HostMove.apply_responses (m : HostMove) (s : State) : (m.apply s).responses = s.responses := by
  cases m <;> simp [HostMove.apply]

theorem engineMove_answers_run {s t : State} {r : StepResult} (hs : s.Inv) (h : engineMove s = .next t)
    (hresp : t.responses = s.responses ++ [.run r]) : t.runs + 1 = s.runs ∧ t.ip = s.ip ∧ t.FinalWith r := by
  obtain ⟨who, u, hstart, hstep⟩ | ⟨-, q, rest, -, rfl⟩ | ⟨-, rest, -, rfl⟩ | ⟨-, rest, -, rfl⟩ | ⟨-, -, -, rfl⟩ :=
    engineMove_next_cases h
  · obtain ⟨-, hpos⟩ := hstart.inv hs
    have hu : u.responses = s.responses ∧ u.runs = s.runs ∧ u.ip = s.ip := by
      obtain ⟨-, rfl⟩ | ⟨-, -, rest, -, rfl⟩ | ⟨-, -, -, -, rfl⟩ := hstart <;> exact ⟨rfl, rfl, rfl⟩
    obtain ⟨huresp, huruns, huip⟩ := hu
    obtain ⟨hwho, hruns, hip, hfinal⟩ := stepper_answers_run hstep (huresp ▸ hresp)
    have := hpos hwho
    exact ⟨by omega, hip.trans huip, hfinal⟩
  · obtain ⟨-, hfail⟩ | ⟨-, hfit⟩ := (s.setPending rest).load_cases q
    · simp [hfail] at hresp
    · simp [hfit] at hresp
  all_goals simp at hresp

/-- Settles O48: the RUN's last step leaves a final state, and in a consistent one `ip` is not past `PSIZE`. -/
theorem runEndsInHaltOrError : Obligations.RunEndsInHaltOrError := by
  intro s t r hs h hresp
  have hip_le : t.ip ≤ t.psize := (stepKeepsConsistency s t hs h).ip_le
  obtain ⟨-, ⟨m, rest, -, -, rfl⟩ | ⟨ms, -, hmove⟩⟩ := step_next_cases h
  · simp at hresp
  · obtain ⟨hruns, hip, hfinal⟩ := engineMove_answers_run (hs.setMoves ms) hmove hresp
    refine ⟨?_, hruns⟩
    obtain ⟨herr, rfl⟩ | ⟨herr, hge, rfl⟩ := hfinal
    · exact .inr ⟨rfl, herr, hip, t.status_eq_error herr⟩
    · exact .inl ⟨rfl, herr, by omega, t.status_eq_halted herr hge⟩

/-! ### RUN and STEP run the same step -/

/-- The count of RUNs in progress becomes `n`. -/
def State.setRuns (s : State) (n : Nat) : State := { s with runs := n }

theorem State.branch_setRuns (s : State) (o : Option Nat) (n : Nat) :
    (s.setRuns n).branch o = (s.branch o).setRuns n := by
  cases o <;> rfl

/-- No instruction reads or writes how many RUNs are in progress. -/
theorem exec_setRuns {i : Instr} {s t : State} (h : exec i s = .next t) (n : Nat) :
    exec i (s.setRuns n) = .next (t.setRuns n) := by
  rcases exec_next_cases h with
    ⟨rfl, rfl⟩ | ⟨rfl, rfl⟩ | ⟨rfl, hd, rfl⟩ | ⟨rfl, hd, rfl⟩ | ⟨rfl, hd, htaking, rfl⟩ | ⟨rfl, hd, htaking, rfl⟩ |
    ⟨rfl, hin, rfl⟩ | ⟨rfl, hd, x, rest, hin, rfl⟩ | ⟨rfl, hd, hz, rfl⟩ | ⟨rfl, hd, hz, rfl⟩ | ⟨rfl, hd, hz, rfl⟩ |
    ⟨rfl, hd, hz, hip, rfl⟩ | ⟨b, rfl, rfl⟩
  · rfl
  · rfl
  · exact State.onTape_of_lt (s := s.setRuns n) hd _
  · exact State.onTape_of_lt (s := s.setRuns n) hd _
  · exact exec_out_of_taking (s := s.setRuns n) hd htaking
  · exact exec_out_of_not_taking (s := s.setRuns n) hd htaking
  · exact exec_inp_of_no_item (s := s.setRuns n) hin
  · exact exec_inp_of_item (s := s.setRuns n) hd hin
  · rw [exec_jz_of_zero (s := s.setRuns n) hd hz, State.branch_setRuns]
    rfl
  · exact exec_jz_of_nonzero (s := s.setRuns n) hd hz
  · exact exec_jnz_of_zero (s := s.setRuns n) hd hz
  · rw [exec_jnz_of_nonzero (s := s.setRuns n) hd hz hip, State.branch_setRuns]
    rfl
  · rfl

/-- What a step does to the engine and the streams does not depend on its command. -/
theorem stepper_run_of_stepper_step {s t : State} (h : stepper .step s = .next t) (n : Nat) :
    ∃ u, stepper .run (s.setRuns n) = .next u ∧
      u.arch = t.arch ∧ u.port = t.port ∧ u.input = t.input ∧ u.output = t.output := by
  obtain ⟨r, hfinal, rfl⟩ | ⟨herr, hip, v, hv, rfl⟩ := stepper_next_final_or_runs h
  · have hfinal' : (s.setRuns n).FinalWith r := hfinal
    exact ⟨_, stepper_of_finalWith hfinal' .run, by simp [State.setRuns, State.arch]⟩
  · have hrun : stepper .run (s.setRuns n) = settleResult .run (.next (v.setRuns n)) :=
      (stepper_of_running (s := s.setRuns n) herr hip .run).trans (congrArg _ (exec_setRuns hv n))
    exact ⟨_, hrun, by simp [State.setRuns, State.arch]⟩

/-- Settles O49: the STEP and the RUN's step are the same step of the Stepper, but for the count of RUNs. -/
theorem runRepeatsStep : Obligations.RunRepeatsStep := by
  intro s t hm hb h
  obtain ⟨h0, -⟩ := step_next_cases h
  have hstep : stepper .step (({ s with pending := [.step], runs := 0 } : State).setPending []) = .next t :=
    (step_eq_stepper h0 hm (State.startsStep_step hb rfl)).symm.trans h
  obtain ⟨u, hu, hsame⟩ := stepper_run_of_stepper_step hstep 1
  have hrun : step { s with pending := [], runs := 1 } = .next u :=
    (step_eq_stepper (s := (s.setPending []).setRuns 1) h0 hm (State.startsStep_run hb rfl Nat.one_pos)).trans hu
  exact ⟨u, hrun, (step_keeps_cfg hrun).symm, hsame⟩

end Sys2Proof.Machine
end

section
/-! SUPPORT. The units and the tape instructions (`41_tape.md` R100 to R106): the pointer unit as arithmetic modulo the
tape size, its iterates, the ALU's iterates, and what LEFT, RIGHT, INC and DEC make of a state. -/

namespace Sys2Proof.Machine

/-! ### One move of the pointer unit -/

section
variable {n p : Nat}

theorem ptrDec_zero (n : Nat) : ptrDec n 0 = n - 1 := if_pos rfl

theorem ptrDec_succ (n p : Nat) : ptrDec n (p + 1) = p := if_neg p.succ_ne_zero

theorem ptrInc_last (n : Nat) : ptrInc n (n - 1) = 0 := if_pos rfl

theorem ptrInc_of_lt (hp : p < n - 1) : ptrInc n p = p + 1 := if_neg (by omega)

theorem ptrDec_eq_mod (hp : p < n) : ptrDec n p = (p + n - 1) % n := by
  cases p with
  | zero => rw [ptrDec_zero, Nat.zero_add, Nat.mod_eq_of_lt (by omega)]
  | succ p => rw [ptrDec_succ, Nat.succ_add_sub_one, Nat.add_mod_right, Nat.mod_eq_of_lt (by omega)]

theorem ptrInc_eq_mod (hp : p < n) : ptrInc n p = (p + 1) % n := by
  obtain rfl | hlt : p = n - 1 ∨ p < n - 1 := by omega
  · rw [ptrInc_last, Nat.sub_add_cancel (by omega), Nat.mod_self]
  · rw [ptrInc_of_lt hlt, Nat.mod_eq_of_lt (by omega)]

theorem ptrDec_ptrInc (hp : p < n) : ptrDec n (ptrInc n p) = p := by
  obtain rfl | hlt : p = n - 1 ∨ p < n - 1 := by omega
  · rw [ptrInc_last, ptrDec_zero]
  · rw [ptrInc_of_lt hlt, ptrDec_succ]

theorem ptrInc_ptrDec (hp : p < n) : ptrInc n (ptrDec n p) = p := by
  cases p with
  | zero => rw [ptrDec_zero, ptrInc_last]
  | succ p => rw [ptrDec_succ, ptrInc_of_lt (by omega)]

/-! ### Many moves of the pointer unit -/

theorem ptrDec_iterate_lt (k : Nat) (hp : p < n) : (ptrDec n)^[k] p < n :=
  Function.Iterate.rec (· < n) hp (fun _ => ptrDec_lt) k

theorem ptrInc_iterate (k : Nat) (hp : p < n) : (ptrInc n)^[k] p = (p + k) % n := by
  induction k with
  | zero => exact (Nat.mod_eq_of_lt hp).symm
  | succ k ih =>
    rw [Function.iterate_succ_apply', ih, ptrInc_eq_mod (Nat.mod_lt _ (by omega)), Nat.mod_add_mod, Nat.add_assoc]

theorem ptrInc_iterate_ptrDec_iterate (k : Nat) (hp : p < n) : (ptrInc n)^[k] ((ptrDec n)^[k] p) = p := by
  induction k with
  | zero => rfl
  | succ k ih =>
    rw [Function.iterate_succ_apply' (ptrDec n), Function.iterate_succ_apply (ptrInc n),
      ptrInc_ptrDec (ptrDec_iterate_lt k hp), ih]

theorem ptrInc_iterate_eq_self_iff {k : Nat} (hp : p < n) : (ptrInc n)^[k] p = p ↔ n ∣ k := by
  have hmod : (p + k) % n = p % n ↔ n ∣ k := Nat.add_modEq_left_iff
  rwa [Nat.mod_eq_of_lt hp, ← ptrInc_iterate k hp] at hmod

/-- `k` moves right take the end of `k` moves left back to `p`, so it is `p` exactly when they go round the tape. -/
theorem ptrDec_iterate_eq_self_iff {k : Nat} (hp : p < n) : (ptrDec n)^[k] p = p ↔ n ∣ k := by
  have hback := ptrInc_iterate_ptrDec_iterate k hp
  calc (ptrDec n)^[k] p = p
    _ ↔ (ptrInc n)^[k] ((ptrDec n)^[k] p) = (ptrDec n)^[k] p := by rw [hback, eq_comm]
    _ ↔ n ∣ k := ptrInc_iterate_eq_self_iff (ptrDec_iterate_lt k hp)

end

/-- Settles O16: both moves are the arithmetic modulo `n`, and `0` and `n - 1` are their wrapping cases. -/
theorem pointerUnitIsCircular : Obligations.PointerUnitIsCircular := by
  intro n p hp
  refine ⟨ptrDec_lt hp, ptrInc_lt hp, ptrDec_eq_mod hp, ptrInc_eq_mod hp, ?first, ?last, ?oneCell⟩
  case first =>
    rintro rfl
    exact ptrDec_zero n
  case last =>
    rintro rfl
    exact ptrInc_last n
  case oneCell =>
    rintro rfl
    exact ⟨Nat.lt_one_iff.mp (ptrDec_lt hp), Nat.lt_one_iff.mp (ptrInc_lt hp)⟩

/-! ### The ALU -/

theorem toNat_aluDec_cast (v : Byte) : ((aluDec v).toNat : Int) = ((v.toNat : Int) - 1) % 256 := by
  rw [toNat_aluDec]
  omega

theorem aluInc_iterate (k : Nat) (v : Byte) : aluInc^[k] v = v + k • 1 := by
  rw [funext aluInc_eq_add, add_right_iterate_apply]

theorem aluDec_iterate (k : Nat) (v : Byte) : aluDec^[k] v = v - k • 1 := by
  rw [funext aluDec_eq_sub]
  simp only [sub_eq_add_neg]
  rw [add_right_iterate_apply, smul_neg]

theorem aluDec_aluInc (v : Byte) : aluDec (aluInc v) = v := by
  rw [aluDec_eq_sub, aluInc_eq_add, add_sub_cancel_right]

theorem aluInc_aluDec (v : Byte) : aluInc (aluDec v) = v := by
  rw [aluDec_eq_sub, aluInc_eq_add, sub_add_cancel]

/-- Settles O17: both operations are defined on the unsigned value. -/
theorem aluIsModulo256 : Obligations.AluIsModulo256 :=
  fun v => ⟨toNat_aluInc v, toNat_aluDec_cast v, toNat_aluDec v, aluInc_eq_add 0xFF, aluDec_eq_sub 0x00⟩

/-- Settles O18: `k` moves in one direction come back exactly when `TAPE_SIZE` divides `k`, and 256 times 1 is no byte but
0. -/
theorem unitsAreCyclic : Obligations.UnitsAreCyclic := by
  have hround : 256 • (1 : Byte) = 0 := by decide
  refine ⟨fun n p hp => ?wholeTape, fun n p k hp hk hkn => ?partOfTape,
    fun n p hp => ⟨ptrDec_ptrInc hp, ptrInc_ptrDec hp⟩, fun v => ⟨?incs, ?decs, aluDec_aluInc v, aluInc_aluDec v⟩⟩
  case wholeTape =>
    exact ⟨(ptrDec_iterate_eq_self_iff hp).mpr dvd_rfl, (ptrInc_iterate_eq_self_iff hp).mpr dvd_rfl⟩
  case partOfTape =>
    have hndvd : ¬ n ∣ k := Nat.not_dvd_of_pos_of_lt hk hkn
    exact ⟨mt (ptrDec_iterate_eq_self_iff hp).mp hndvd, mt (ptrInc_iterate_eq_self_iff hp).mp hndvd⟩
  case incs => rw [aluInc_iterate, hround, add_zero]
  case decs => rw [aluDec_iterate, hround, sub_zero]

/-! ### The tape instructions -/

theorem exec_left (s : State) : exec .left s = .next (s.setDp (ptrDec s.cfg.tapeSize s.dp)).advance := rfl

theorem exec_right (s : State) : exec .right s = .next (s.setDp (ptrInc s.cfg.tapeSize s.dp)).advance := rfl

theorem exec_inc {s : State} (hd : s.dp < s.cfg.tapeSize) : exec .inc s = .next (s.setCell (aluInc s.cell)).advance :=
  State.onTape_of_lt hd _

theorem exec_dec {s : State} (hd : s.dp < s.cfg.tapeSize) : exec .dec s = .next (s.setCell (aluDec s.cell)).advance :=
  State.onTape_of_lt hd _

theorem State.read_setCell_same {s : State} (hwf : s.tape.wf) (v : Byte) : (s.setCell v).tape.read s.dp = v :=
  Memory.read_write_same hwf s.dp v

theorem State.read_setCell_other (s : State) (v : Byte) {a : Nat} (ha : a ≠ s.dp) :
    (s.setCell v).tape.read a = s.tape.read a :=
  Memory.read_write_other s.tape ha v

/-- Settles O19: the move left is the decrement modulo `TAPE_SIZE`. -/
theorem leftMovesPointer : Obligations.LeftMovesPointer := by
  refine ⟨rfl, fun s hd => ?_⟩
  rw [exec_left, ptrDec_eq_mod hd]
  rfl

/-- Settles O20: the move right is the increment modulo `TAPE_SIZE`. -/
theorem rightMovesPointer : Obligations.RightMovesPointer := by
  refine ⟨rfl, fun s hd => ?_⟩
  rw [exec_right, ptrInc_eq_mod hd]
  rfl

/-- Settles O21: INC writes `AluInc` of the current cell to the current cell alone. -/
theorem incAddsOneToCell : Obligations.IncAddsOneToCell := by
  refine ⟨rfl, fun s hd hwf => ⟨_, exec_inc hd, rfl, ?current, fun a => State.read_setCell_other s _⟩⟩
  case current => rw [State.advance_tape, State.read_setCell_same hwf, toNat_aluInc, State.cell]

/-- Settles O22: DEC writes `AluDec` of the current cell to the current cell alone. -/
theorem decSubtractsOneFromCell : Obligations.DecSubtractsOneFromCell := by
  refine ⟨rfl, fun s hd hwf => ⟨_, exec_dec hd, rfl, ?current, fun a => State.read_setCell_other s _⟩⟩
  case current => rw [State.advance_tape, State.read_setCell_same hwf, toNat_aluDec_cast, State.cell]

end Sys2Proof.Machine
end

section
/-! SUPPORT. The I/O instructions (`42_io.md` R120 to R126): what IN leaves in the current cell, and the machine step that
completes a wait once the host serves its port. -/

namespace Sys2Proof.Machine

/-! ### The instructions -/

theorem exec_inp_setInput_cons (s : State) (x : InItem) (rest : List InItem) :
    exec .inp (s.setInput (x :: rest)) =
      s.onTape (.next ((s.takeInput rest).setCell (x.value s.cfg.eofByte)).advance) := rfl

theorem State.cell_after_stored_item {s : State} (hwf : s.tape.wf) (x : InItem) (rest : List InItem) :
    ((s.takeInput rest).setCell (x.value s.cfg.eofByte)).advance.cell = x.value s.cfg.eofByte :=
  State.read_setCell_same (s := s.takeInput rest) hwf _

/-- Settles O26: a completed OUT is `handOver` of the current cell, then the advance. -/
theorem outHandsCellToHost : Obligations.OutHandsCellToHost :=
  ⟨rfl, fun _ => exec_out_of_taking⟩

/-- Settles O27: an OUT that is not served is `waitOffering` of the current cell. -/
theorem outWaitsUntilTaken : Obligations.OutWaitsUntilTaken :=
  fun _ => exec_out_of_not_taking

/-- Settles O28: IN writes the item's value to the current cell alone. -/
theorem inStoresItemInCell : Obligations.InStoresItemInCell := by
  refine ⟨rfl, fun s x rest hd hwf hin => ⟨_, exec_inp_of_item hd hin, rfl, ?byte, ?eof,
    fun a => State.read_setCell_other (s.takeInput rest) _⟩⟩
  case byte =>
    rintro v rfl
    exact State.cell_after_stored_item hwf (.byte v) rest
  case eof =>
    rintro rfl
    exact State.cell_after_stored_item hwf .eof rest

/-- Settles O29: an IN that is not served is `waitAwaiting`. -/
theorem inWaitsForItem : Obligations.InWaitsForItem :=
  fun _ => exec_inp_of_no_item

/-- Settles O30: an item reaches the state by its value alone, and both items have the value `EOF_BYTE`. -/
theorem eofAndItsByteLookAlike : Obligations.EofAndItsByteLookAlike :=
  fun s rest => (exec_inp_setInput_cons s (.byte s.cfg.eofByte) rest).trans (exec_inp_setInput_cons s .eof rest).symm

/-! ### The machine step of a wait -/

/-- In a waiting state the machine step tries the waiting instruction again, and the step ends if that completes. -/
theorem step_of_completed_wait {s u : State} (hs : s.Inv) (hm : s.moves = []) (hport : s.port ≠ .idle)
    (hexec : exec (decodeByte (s.fetch s.ip)) s = .next u) (hidle : u.port = .idle) :
    ∃ who, step s = .next (u.settle who) ∧ (u.settle who).busy = none := by
  obtain ⟨hwaits, herr, hip, -⟩ := hs.waits_of_port_ne_idle hport
  obtain ⟨who, hbusy⟩ := Option.ne_none_iff_exists'.mp hwaits
  refine ⟨who, ?_, State.settle_busy_of_idle hidle⟩
  rw [step_eq_stepper hs.tapeSize_pos hm (State.startsStep_busy hbusy), stepper_of_running herr hip, hexec,
    settleResult]

/-- Settles O32: the resumed OUT or IN finds its port served, completes, and the step ends. -/
theorem servedWaitCompletes : Obligations.ServedWaitCompletes := by
  refine fun s hs hm => ⟨fun v hport htaking => ?output, fun x rest hport hin => ?input⟩
  case output =>
    obtain ⟨-, -, -, hout, rfl⟩ := hs.offering hport
    have hexec := exec_out_of_taking hs.dp_lt htaking
    obtain ⟨who, hstep, hended⟩ := step_of_completed_wait hs hm (by simp [hport]) (hout ▸ hexec) rfl
    exact ⟨_, hstep, by simp [hended]⟩
  case input =>
    obtain ⟨-, -, -, hinp⟩ := hs.awaiting hport
    have hexec := exec_inp_of_item hs.dp_lt hin
    obtain ⟨who, hstep, hended⟩ := step_of_completed_wait hs hm (by simp [hport]) (hinp ▸ hexec) rfl
    have hcell := State.cell_after_stored_item hs.tape_wf x rest
    exact ⟨_, hstep, by simpa [hended, State.cell] using hcell⟩

end Sys2Proof.Machine
end

section
/-! SUPPORT. The bracket scans (`43_loop.md` R141, R142): a scan's counter is the nesting above a fixed level, so a scan
stops where the nesting first falls to that level, and both scans find the same pairs of brackets. -/

namespace Sys2Proof.Machine

/-! ### The nesting of one byte (R151) -/

theorem bracketValue_opJZ : bracketValue opJZ = 1 := rfl

theorem bracketValue_opJNZ : bracketValue opJNZ = -1 := rfl

/-- A byte is an opening bracket, a closing bracket, or counts for nothing in either scan and in the nesting. -/
theorem bracket_cases (b : Byte) :
    b = opJZ ∨ b = opJNZ ∨ (b ≠ opJZ ∧ b ≠ opJNZ ∧ bracketValue b = 0) := by
  by_cases hjz : b = opJZ
  · exact .inl hjz
  · by_cases hjnz : b = opJNZ
    · exact .inr (.inl hjnz)
    · exact .inr (.inr ⟨hjz, hjnz, by rw [bracketValue, if_neg hjz, if_neg hjnz]⟩)

theorem eq_opJZ_of_bracketValue_pos {b : Byte} (h : 0 < bracketValue b) : b = opJZ := by
  obtain rfl | rfl | ⟨-, -, hzero⟩ := bracket_cases b
  · rfl
  · exact absurd h (by decide)
  · omega

theorem eq_opJNZ_of_bracketValue_neg {b : Byte} (h : bracketValue b < 0) : b = opJNZ := by
  obtain rfl | rfl | ⟨-, -, hzero⟩ := bracket_cases b
  · exact absurd h (by decide)
  · rfl
  · omega

theorem State.nesting_succ (s : State) (a : Nat) : s.nesting (a + 1) = s.nesting a + bracketValue (s.fetch a) := rfl

theorem State.nesting_succ_of_opJZ {s : State} {a : Nat} (h : s.fetch a = opJZ) :
    s.nesting (a + 1) = s.nesting a + 1 := by
  rw [s.nesting_succ, h, bracketValue_opJZ]

theorem State.nesting_succ_of_opJNZ {s : State} {a : Nat} (h : s.fetch a = opJNZ) :
    s.nesting (a + 1) = s.nesting a - 1 := by
  rw [s.nesting_succ, h, bracketValue_opJNZ, Int.sub_eq_add_neg]

/-! ### The counter of a scan (R146)

Both scans keep the counter at the nesting above the level `N` that they look for. -/

theorem nestDepth_forward (b : Byte) {d : Nat} (hd : 0 < d) :
    (nestDepth opJZ opJNZ b d : Int) = d + bracketValue b := by
  obtain rfl | rfl | ⟨hjz, hjnz, hzero⟩ := bracket_cases b
  · rw [nestDepth_own, bracketValue_opJZ, Nat.cast_succ]
  · rw [nestDepth_partner (by decide), bracketValue_opJNZ]
    omega
  · rw [nestDepth_other hjz hjnz, hzero, add_zero]

theorem nestDepth_backward (b : Byte) {d : Nat} (hd : 0 < d) :
    (nestDepth opJNZ opJZ b d : Int) = d - bracketValue b := by
  obtain rfl | rfl | ⟨hjz, hjnz, hzero⟩ := bracket_cases b
  · rw [nestDepth_partner (by decide), bracketValue_opJZ]
    omega
  · rw [nestDepth_own, bracketValue_opJNZ, Nat.cast_succ, sub_neg_eq_add]
  · rw [nestDepth_other hjnz hjz, hzero, sub_zero]

theorem State.nesting_after_forward {s : State} {N : Int} {d j : Nat} (hd : 0 < d) (hj : s.nesting j = N + d) :
    s.nesting (j + 1) = N + nestDepth opJZ opJNZ (s.prog.read j) d := by
  rw [nestDepth_forward _ hd, s.nesting_succ, hj, State.fetch, add_assoc]

theorem State.nesting_after_backward {s : State} {N : Int} {d j : Nat} (hd : 0 < d)
    (hj : s.nesting (j + 1) = N + d) : s.nesting j = N + nestDepth opJNZ opJZ (s.prog.read j) d := by
  rw [s.nesting_succ, State.fetch] at hj
  rw [nestDepth_backward _ hd]
  omega

/-! ### What a scan finds -/

/-- The forward loop finds the first of its `n` addresses after which the nesting is `N`. -/
theorem State.scanUp_eq_some_iff {s : State} {N : Int} {n d j m : Nat} (hd : 0 < d) (hj : s.nesting j = N + d) :
    scanUp s.prog n d j = some m ↔
      j ≤ m ∧ m < j + n ∧ s.nesting (m + 1) = N ∧ ∀ k, j ≤ k → k < m → N < s.nesting (k + 1) := by
  induction n generalizing d j with
  | zero =>
    exact ⟨nofun, fun ⟨hjm, hmj, _⟩ => by omega⟩
  | succ n ih =>
    have hnext := State.nesting_after_forward hd hj
    rw [scanUp]
    generalize nestDepth opJZ opJNZ (s.prog.read j) d = e at hnext ⊢
    by_cases he : e = 0
    · rw [if_pos he, Option.some_inj]
      constructor
      · rintro rfl
        exact ⟨le_rfl, by omega, by omega, fun k _ _ => by omega⟩
      · rintro ⟨hjm, -, -, hbefore⟩
        by_contra hne
        have := hbefore j le_rfl (by omega)
        omega
    · rw [if_neg he, ih (by omega) hnext]
      constructor
      · rintro ⟨hjm, hmn, hm, hbefore⟩
        refine ⟨by omega, by omega, hm, fun k hjk hkm => ?_⟩
        obtain rfl | hlt := hjk.eq_or_lt
        · omega
        · exact hbefore k hlt hkm
      · rintro ⟨hjm, hmn, hm, hbefore⟩
        have hne : j ≠ m := by
          rintro rfl
          omega
        exact ⟨by omega, by omega, hm, fun k hjk => hbefore k (by omega)⟩

/-- The backward loop finds the last address below `j` at which the nesting is `N`. -/
theorem State.scanDown_eq_some_iff {s : State} {N : Int} {d j m : Nat} (hd : 0 < d) (hj : s.nesting j = N + d) :
    scanDown s.prog j d = some m ↔ m < j ∧ s.nesting m = N ∧ ∀ k, m < k → k < j → N < s.nesting k := by
  induction j generalizing d with
  | zero => exact ⟨nofun, fun ⟨hmj, _⟩ => absurd hmj m.not_lt_zero⟩
  | succ j ih =>
    have hnext := State.nesting_after_backward hd hj
    rw [scanDown]
    generalize nestDepth opJNZ opJZ (s.prog.read j) d = e at hnext ⊢
    by_cases he : e = 0
    · rw [if_pos he, Option.some_inj]
      constructor
      · rintro rfl
        exact ⟨by omega, by omega, fun k _ _ => by omega⟩
      · rintro ⟨hmj, -, hafter⟩
        by_contra hne
        have := hafter j (by omega) (by omega)
        omega
    · rw [if_neg he, ih (by omega) hnext]
      constructor
      · rintro ⟨hmj, hm, hafter⟩
        refine ⟨by omega, hm, fun k hmk hkj => ?_⟩
        obtain rfl | hlt := (Nat.le_of_lt_succ hkj).eq_or_lt
        · omega
        · exact hafter k hmk hlt
      · rintro ⟨hmj, hm, hafter⟩
        have hne : m ≠ j := by
          rintro rfl
          omega
        exact ⟨by omega, hm, fun k hmk hkj => hafter k hmk (by omega)⟩

/-- Settles O36: the forward scan looks for the level one below the nesting just after `a`. -/
theorem forwardScanFindsFirstClosing : Obligations.ForwardScanFindsFirstClosing := by
  intro s a m
  have hlevel : s.nesting (a + 1) = s.nesting (a + 1) - 1 + (1 : Nat) := by omega
  have hrange : a + 1 ≤ m → (m < a + 1 + (s.psize - (a + 1)) ↔ m < s.psize) := by omega
  rw [State.scanForward, State.scanUp_eq_some_iff Nat.one_pos hlevel]
  simp only [Int.sub_one_lt_iff, Nat.succ_le_iff]
  exact and_congr_right fun ham => and_congr_left fun _ => hrange ham

/-- Settles O37: the backward scan looks for the level one below the nesting at `a`. -/
theorem backwardScanFindsLastOpening : Obligations.BackwardScanFindsLastOpening := by
  intro s a m
  have hlevel : s.nesting a = s.nesting a - 1 + (1 : Nat) := by omega
  rw [State.scanBackward, State.scanDown_eq_some_iff Nat.one_pos hlevel]
  simp only [Int.sub_one_lt_iff]

/-! ### Partners -/

/-- Brackets at `a` and `m` are partners: the nesting rises at `a`, stays above, and is back just after `m`. -/
def State.Partners (s : State) (a m : Nat) : Prop :=
  a < m ∧ s.nesting (m + 1) = s.nesting a ∧ ∀ k, a < k → k ≤ m → s.nesting a < s.nesting k

theorem State.Partners.opens {s : State} {a m : Nat} (h : s.Partners a m) : s.fetch a = opJZ := by
  obtain ⟨ham, -, habove⟩ := h
  have hrise := habove (a + 1) a.lt_succ_self ham
  exact eq_opJZ_of_bracketValue_pos (by rw [s.nesting_succ] at hrise; omega)

theorem State.Partners.closes {s : State} {a m : Nat} (h : s.Partners a m) : s.fetch m = opJNZ := by
  obtain ⟨ham, hback, habove⟩ := h
  have hfall := habove m ham le_rfl
  exact eq_opJNZ_of_bracketValue_neg (by rw [s.nesting_succ] at hback; omega)

/-- From an opening bracket the forward scan finds its partner in the program. -/
theorem State.scanForward_eq_some_iff_partners {s : State} {a m : Nat} (ha : s.fetch a = opJZ) :
    s.scanForward a = some m ↔ m < s.psize ∧ s.Partners a m := by
  have hrise := State.nesting_succ_of_opJZ ha
  rw [forwardScanFindsFirstClosing, State.Partners]
  constructor
  · rintro ⟨ham, hm, hclosed, hbefore⟩
    refine ⟨hm, ham, by omega, fun k hak hkm => ?_⟩
    obtain ⟨j, rfl⟩ : ∃ j, k = j + 1 := ⟨k - 1, by omega⟩
    obtain rfl | hlt := (Nat.le_of_lt_succ hak).eq_or_lt
    · omega
    · have := hbefore j hlt hkm
      omega
  · rintro ⟨hm, ham, hback, habove⟩
    refine ⟨ham, hm, by omega, fun j haj hjm => ?_⟩
    have := habove (j + 1) (by omega) hjm
    omega

/-- From a closing bracket the backward scan finds its partner. -/
theorem State.scanBackward_eq_some_iff_partners {s : State} {a m : Nat} (hm : s.fetch m = opJNZ) :
    s.scanBackward m = some a ↔ s.Partners a m := by
  have hfall := State.nesting_succ_of_opJNZ hm
  rw [backwardScanFindsLastOpening, State.Partners]
  constructor
  · rintro ⟨ham, hopened, hafter⟩
    refine ⟨ham, by omega, fun k hak hkm => ?_⟩
    obtain rfl | hlt := hkm.eq_or_lt
    · omega
    · have := hafter k hak hlt
      omega
  · rintro ⟨ham, hback, habove⟩
    refine ⟨ham, by omega, fun k hak hkm => ?_⟩
    have := habove k hak hkm.le
    omega

/-- Settles O38: from either side a scan finds the partner, and partners are an opening and a closing bracket. -/
theorem scansAreInverse : Obligations.ScansAreInverse := by
  refine fun s a m _ hm => ⟨fun hopen hscan => ?_, fun hclose hscan => ?_⟩
  · obtain ⟨-, hpartners⟩ := (State.scanForward_eq_some_iff_partners hopen).mp hscan
    exact ⟨hpartners.closes, (State.scanBackward_eq_some_iff_partners hpartners.closes).mpr hpartners⟩
  · have hpartners := (State.scanBackward_eq_some_iff_partners hclose).mp hscan
    exact ⟨hpartners.opens, (State.scanForward_eq_some_iff_partners hpartners.opens).mpr ⟨hm, hpartners⟩⟩

/-! ### A scan that fails, and a balanced program (R152) -/

/-- A forward loop that fails ends above the level it looks for. -/
theorem State.nesting_of_scanUp_eq_none {s : State} {N : Int} {n d j : Nat} (hd : 0 < d)
    (hj : s.nesting j = N + d) (h : scanUp s.prog n d j = none) : N < s.nesting (j + n) := by
  induction n generalizing d j with
  | zero => simpa [hj] using hd
  | succ n ih =>
    have hnext := State.nesting_after_forward hd hj
    rw [scanUp] at h
    split at h
    · simp at h
    · rename_i hne
      rw [Nat.add_comm n, ← Nat.add_assoc]
      exact ih (Nat.pos_of_ne_zero hne) hnext h

/-- A backward loop that fails ends above the level it looks for. -/
theorem State.nesting_of_scanDown_eq_none {s : State} {N : Int} {d j : Nat} (hd : 0 < d)
    (hj : s.nesting j = N + d) (h : scanDown s.prog j d = none) : N < s.nesting 0 := by
  induction j generalizing d with
  | zero => simpa [hj] using hd
  | succ j ih =>
    have hnext := State.nesting_after_backward hd hj
    rw [scanDown] at h
    split at h
    · simp at h
    · rename_i hne
      exact ih (Nat.pos_of_ne_zero hne) hnext h

/-- An opening bracket with no partner leaves the nesting above its own to the end of the program. -/
theorem State.nesting_lt_of_scanForward_eq_none {s : State} {a : Nat} (ha : a < s.psize) (hopen : s.fetch a = opJZ)
    (h : s.scanForward a = none) : s.nesting a < s.nesting s.psize := by
  have hend := State.nesting_of_scanUp_eq_none Nat.one_pos (State.nesting_succ_of_opJZ hopen) h
  rwa [Nat.add_sub_cancel' ha] at hend

/-- A closing bracket with no partner takes the nesting below 0. -/
theorem State.nesting_neg_of_scanBackward_eq_none {s : State} {m : Nat} (hclose : s.fetch m = opJNZ)
    (h : s.scanBackward m = none) : s.nesting (m + 1) < 0 := by
  have hlevel : s.nesting m = s.nesting (m + 1) + (1 : Nat) := by
    rw [State.nesting_succ_of_opJNZ hclose]
    omega
  exact State.nesting_of_scanDown_eq_none Nat.one_pos hlevel h

theorem State.Balanced.scanForward_ne_none {s : State} (hs : s.Balanced) {a : Nat} (ha : a < s.psize)
    (hopen : s.fetch a = opJZ) : s.scanForward a ≠ none := by
  intro h
  obtain ⟨hnonneg, hend⟩ := hs
  have hlow := hnonneg a ha.le
  have hhigh := State.nesting_lt_of_scanForward_eq_none ha hopen h
  omega

theorem State.Balanced.scanBackward_ne_none {s : State} (hs : s.Balanced) {m : Nat} (hm : m < s.psize)
    (hclose : s.fetch m = opJNZ) : s.scanBackward m ≠ none := by
  intro h
  obtain ⟨hnonneg, -⟩ := hs
  have hlow := hnonneg (m + 1) hm
  have hneg := State.nesting_neg_of_scanBackward_eq_none hclose h
  omega

end Sys2Proof.Machine
end

section
/-! SUPPORT. JZ and JNZ (`43_loop.md` R143, R144), and what sets the latch (`60_exceptions.md` R170 to R173): an
instruction, and above it a machine step, sets it only for an unmatched bracket. -/

namespace Sys2Proof.Machine

/-! ### The two instructions -/

theorem State.branch_some (s : State) (m : Nat) : s.branch (some m) = { s with ip := m + 1 } := rfl

theorem State.branch_none (s : State) : s.branch none = { s with err := true } := rfl

/-- Settles O34: on a zero cell JZ is the branch on the forward scan's result, on any other the advance. -/
theorem jzBranchesOnZero : Obligations.JzBranchesOnZero := by
  refine ⟨rfl, fun s hd => ⟨exec_jz_of_nonzero hd, fun m hz hscan => ?jump, fun hz hscan => ?raise⟩⟩
  case jump => rw [exec_jz_of_zero hd hz, hscan, State.branch_some]
  case raise => rw [exec_jz_of_zero hd hz, hscan, State.branch_none]

/-- Settles O35: on a nonzero cell JNZ is the branch on the backward scan's result, on a zero cell the advance. -/
theorem jnzBranchesOnNonzero : Obligations.JnzBranchesOnNonzero := by
  refine ⟨rfl, fun s hd hip => ⟨exec_jnz_of_zero hd, fun m hz hscan => ?jump, fun hz hscan => ?raise⟩⟩
  case jump => rw [exec_jnz_of_nonzero hd hz hip, hscan, State.branch_some]
  case raise => rw [exec_jnz_of_nonzero hd hz hip, hscan, State.branch_none]

/-! ### What sets the latch -/

/-- An instruction scans and latches a failed scan, or it calls for no scan and keeps the latch (R148, R170). -/
theorem exec_err_cases {i : Instr} {s t : State} (h : exec i s = .next t) :
    (i = .jz ∧ s.cell = 0 ∧ t.err = (s.err || (s.scanForward s.ip).isNone)) ∨
    (i = .jnz ∧ s.cell ≠ 0 ∧ t.err = (s.err || (s.scanBackward s.ip).isNone)) ∨
    ((i = .jz → s.cell ≠ 0) ∧ (i = .jnz → s.cell = 0) ∧ t.err = s.err) := by
  rcases exec_next_cases h with
    ⟨rfl, rfl⟩ | ⟨rfl, rfl⟩ | ⟨rfl, -, rfl⟩ | ⟨rfl, -, rfl⟩ | ⟨rfl, -, -, rfl⟩ | ⟨rfl, -, -, rfl⟩ | ⟨rfl, -, rfl⟩ |
    ⟨rfl, -, x, rest, -, rfl⟩ | ⟨rfl, -, hz, rfl⟩ | ⟨rfl, -, hz, rfl⟩ | ⟨rfl, -, hz, rfl⟩ | ⟨rfl, -, hz, -, rfl⟩ |
    ⟨b, rfl, rfl⟩
  -- JZ on a zero cell, and JNZ on a nonzero cell
  on_goal 9 => exact .inl ⟨rfl, hz, s.branch_err _⟩
  on_goal 11 => exact .inr (.inl ⟨rfl, hz, s.branch_err _⟩)
  -- JZ on a nonzero cell, and JNZ on a zero cell
  on_goal 9 => exact .inr (.inr ⟨fun _ => hz, nofun, rfl⟩)
  on_goal 9 => exact .inr (.inr ⟨nofun, fun _ => hz, rfl⟩)
  all_goals exact .inr (.inr ⟨nofun, nofun, rfl⟩)

/-- With the latch clear before, an instruction sets it exactly when it is a bracket whose condition calls for a scan
and whose scan fails. -/
theorem exec_sets_latch_iff {i : Instr} {s t : State} (h : exec i s = .next t) (herr : s.err = false) :
    t.err = true ↔
      (i = .jz ∧ s.cell = 0 ∧ s.scanForward s.ip = none) ∨
      (i = .jnz ∧ s.cell ≠ 0 ∧ s.scanBackward s.ip = none) := by
  obtain ⟨rfl, hz, ht⟩ | ⟨rfl, hz, ht⟩ | ⟨hjz, hjnz, ht⟩ := exec_err_cases h
  · simp [ht, herr, hz]
  · simpa [ht, herr] using fun _ => hz
  · rw [ht, herr]
    refine ⟨nofun, ?_⟩
    rintro (⟨hi, hz, -⟩ | ⟨hi, hz, -⟩)
    · exact absurd hz (hjz hi)
    · exact absurd (hjnz hi) hz

/-- Settles O40: only the two scanning brackets write the latch, and to set it is `raiseUnmatched`. -/
theorem onlyUnmatchedBracketsRaise : Obligations.OnlyUnmatchedBracketsRaise :=
  fun _ _ _ h herr => ⟨exec_sets_latch_iff h herr, exec_eq_raiseUnmatched h herr⟩

theorem eq_encode_of_decodeByte_eq {b : Byte} {i : Instr} (h : decodeByte b = i) : b = encode i := by
  rw [← h, encode_decodeByte]

/-- A step that sets the latch stands at an unmatched bracket, which explains the latch (`60_exceptions.md` R172). -/
theorem stepper_sets_latch {who : Issuer} {s t : State} (h : stepper who s = .next t) (herr : s.err = false)
    (ht : t.err = true) : s.raiseUnmatched.ErrorCause := by
  obtain ⟨hs, -⟩ | ⟨-, -, rfl⟩ | ⟨-, hip, u, hu, rfl⟩ := stepper_next_cases h
  · simp [herr] at hs
  · simp [herr] at ht
  · refine fun _ => ⟨hip, ?_⟩
    obtain ⟨hi, hz, hscan⟩ | ⟨hi, hz, hscan⟩ := (exec_sets_latch_iff hu herr).mp (by simpa using ht)
    · exact .inl ⟨eq_encode_of_decodeByte_eq hi, hz, hscan⟩
    · exact .inr ⟨eq_encode_of_decodeByte_eq hi, hz, hscan⟩

theorem engineMove_sets_latch {s t : State} (h : engineMove s = .next t) (herr : s.err = false)
    (ht : t.err = true) : s.raiseUnmatched.ErrorCause := by
  obtain ⟨who, u, hstart, hstep⟩ | ⟨-, q, rest, -, rfl⟩ | ⟨-, rest, -, rfl⟩ | ⟨-, rest, -, rfl⟩ | ⟨-, -, -, rfl⟩ :=
    engineMove_next_cases h
  case inl =>
    -- the command that starts the step leaves the queue, which no clause reads
    obtain ⟨-, rfl⟩ | ⟨-, -, rest, -, rfl⟩ | ⟨-, -, -, -, rfl⟩ := hstart
    · exact stepper_sets_latch hstep herr ht
    · exact stepper_sets_latch (s := s.setPending rest) hstep herr ht
    · exact stepper_sets_latch hstep herr ht
  case inr.inl =>
    obtain ⟨-, hload⟩ | ⟨-, hload⟩ := (s.setPending rest).load_cases q <;> simp [hload, herr] at ht
  all_goals simp [herr] at ht

theorem HostMove.apply_keeps_latch_clear (m : HostMove) {s : State} (herr : s.err = false) :
    (m.apply s).err = false := by
  cases m with
  | reset => rfl
  | pause | command c | offer x | setTaking b => exact herr

theorem step_sets_latch {s t : State} (h : step s = .next t) (herr : s.err = false) (ht : t.err = true) :
    s.raiseUnmatched.ErrorCause := by
  obtain ⟨-, ⟨m, rest, -, -, rfl⟩ | ⟨ms, -, hmove⟩⟩ := step_next_cases h
  · simp [m.apply_keeps_latch_clear (s := s.setMoves rest) herr] at ht
  · exact engineMove_sets_latch (s := s.setMoves ms) hmove herr ht

theorem State.Balanced.not_errorCause_raiseUnmatched {s : State} (hs : s.Balanced) :
    ¬ s.raiseUnmatched.ErrorCause := by
  intro h
  obtain ⟨hip, ⟨hopen, -, hscan⟩ | ⟨hclose, -, hscan⟩⟩ := h rfl
  · exact hs.scanForward_ne_none hip hopen hscan
  · exact hs.scanBackward_ne_none hip hclose hscan

/-- Settles O39: in a balanced program no scan from a bracket fails, so every bracket has its partner and no latch could
be explained. -/
theorem balancedProgramNeverRaises : Obligations.BalancedProgramNeverRaises := by
  refine fun s hs => ⟨fun a ha hopen => ?_, fun m hm hclose => ?_, fun t herr hstep => ?_⟩
  · obtain ⟨m, hscan⟩ := Option.ne_none_iff_exists'.mp (hs.scanForward_ne_none ha hopen)
    obtain ⟨hinverse, -⟩ := scansAreInverse s a m ha (State.scanForward_lt hscan)
    exact ⟨m, hscan, hinverse hopen hscan⟩
  · obtain ⟨a, hscan⟩ := Option.ne_none_iff_exists'.mp (hs.scanBackward_ne_none hm hclose)
    obtain ⟨-, hinverse⟩ := scansAreInverse s a m ((State.scanBackward_lt hscan).trans hm) hm
    exact ⟨a, hscan, hinverse hclose hscan⟩
  · by_contra ht
    exact hs.not_errorCause_raiseUnmatched (step_sets_latch hstep herr (by simpa using ht))

end Sys2Proof.Machine
end

section
/-! SUPPORT. The error outcome (`60_exceptions.md` R170 to R176) and the host interface (R181, R185): what explains a set
latch, which configurations are refused, a LOAD that fails, the host's moves, and the idle engine. -/

namespace Sys2Proof.Machine

/-! ### The cause of a set latch (R172) -/

/-- The cause is read off the architectural state. -/
theorem State.errorCause_congr {s t : State} (h : t.arch = s.arch) : t.ErrorCause ↔ s.ErrorCause := by
  simp only [State.arch, Arch.mk.injEq] at h
  obtain ⟨htape, hdp, hprog, hpsize, hip, herr⟩ := h
  simp only [State.ErrorCause, State.fetch, State.cell, State.scanForward, State.scanBackward,
    htape, hdp, hprog, hpsize, hip, herr]

theorem State.errorCause_of_latch_clear {s : State} (herr : s.err = false) : s.ErrorCause :=
  fun hset => absurd hset (by simp [herr])

theorem stepper_keeps_errorCause {who : Issuer} {s t : State} (hs : s.ErrorCause) (h : stepper who s = .next t) :
    t.ErrorCause := by
  obtain ⟨r, -, rfl⟩ | ⟨herr, -, u, hu, rfl⟩ := stepper_next_final_or_runs h
  · exact (State.errorCause_congr (s.answer_arch who r)).mpr hs
  · intro hset
    have hraised : u = s.raiseUnmatched := exec_eq_raiseUnmatched hu herr (by simpa using hset)
    have harch : (u.settle who).arch = s.raiseUnmatched.arch := by rw [State.settle_arch, hraised]
    exact (State.errorCause_congr harch).mpr (stepper_sets_latch h herr hset) hset

/-- A LOAD that fails keeps the architectural state; one that fits clears the latch. -/
theorem State.ErrorCause.load {s : State} (h : s.ErrorCause) (q : List Byte) : (s.load q).ErrorCause := by
  obtain ⟨-, hfail⟩ | ⟨-, hfit⟩ := s.load_cases q
  · rw [hfail]
    exact h
  · rw [hfit]
    exact State.errorCause_of_latch_clear rfl

theorem State.StartsStep.arch_eq {s u : State} {who : Issuer} (h : s.StartsStep u who) : u.arch = s.arch := by
  obtain ⟨-, rfl⟩ | ⟨-, -, rest, -, rfl⟩ | ⟨-, -, -, -, rfl⟩ := h <;> rfl

theorem engineMove_keeps_errorCause {s t : State} (hs : s.ErrorCause) (h : engineMove s = .next t) :
    t.ErrorCause := by
  obtain ⟨who, u, hstart, hstep⟩ | ⟨-, q, rest, -, rfl⟩ | ⟨-, rest, -, rfl⟩ | ⟨-, rest, -, rfl⟩ | ⟨-, -, -, rfl⟩ :=
    engineMove_next_cases h
  case inl => exact stepper_keeps_errorCause ((State.errorCause_congr hstart.arch_eq).mpr hs) hstep
  case inr.inl => exact State.ErrorCause.load (s := s.setPending rest) hs q
  all_goals exact hs

/-- A host move but RESET keeps the architectural state (R181). -/
theorem HostMove.apply_arch {m : HostMove} (hm : m ≠ .reset) (s : State) : (m.apply s).arch = s.arch := by
  cases m with
  | reset => exact absurd rfl hm
  | pause | command c | offer x | setTaking b => rfl

theorem HostMove.apply_keeps_errorCause (m : HostMove) {s : State} (hs : s.ErrorCause) : (m.apply s).ErrorCause := by
  by_cases hm : m = .reset
  · subst hm
    exact State.errorCause_of_latch_clear rfl
  · exact (State.errorCause_congr (HostMove.apply_arch hm s)).mpr hs

/-- Settles O11: a step that sets the latch leaves its cause, and whatever else a machine step does clears the latch or
keeps the architectural state, from which the cause is read. -/
theorem stepKeepsErrorCause : Obligations.StepKeepsErrorCause := by
  intro s t hs h
  obtain ⟨-, ⟨m, rest, -, -, rfl⟩ | ⟨ms, -, hmove⟩⟩ := step_next_cases h
  · exact m.apply_keeps_errorCause (s := s.setMoves rest) hs
  · exact engineMove_keeps_errorCause (s := s.setMoves ms) hs hmove

/-! ### Refusals (R175) -/

theorem settleResult_not_refused {who : Issuer} {res : Result} (h : ∀ r, res ≠ .refused r) (r : Refusal) :
    settleResult who res ≠ .refused r := by
  cases res with
  | next s => exact nofun
  | fault f => exact nofun
  | refused r' => exact absurd rfl (h r')

theorem stepper_not_refused (who : Issuer) (s : State) (r : Refusal) : stepper who s ≠ .refused r := by
  unfold stepper
  split
  · exact nofun
  · split
    · exact nofun
    · exact settleResult_not_refused (exec_not_refused _ s) r

theorem serve_not_refused (c : Command) (s : State) (r : Refusal) : serve c s ≠ .refused r := by
  cases c with
  | step => exact stepper_not_refused .step s r
  | load q | run | observe => exact nofun

theorem engineMove_not_refused (s : State) (r : Refusal) : engineMove s ≠ .refused r := by
  obtain ⟨who, -, e⟩ | ⟨c, rest, -, -, e⟩ | ⟨-, -, -, e⟩ | ⟨-, -, -, e⟩ := engineMove_cases s <;> rw [e]
  · exact stepper_not_refused who s r
  · exact serve_not_refused c _ r
  · exact nofun
  · exact stepper_not_refused .run s r

theorem step_of_no_engine {s : State} (h0 : s.cfg.tapeSize = 0) : step s = .refused .tapeSizeZero := by
  rw [step, machineStep, if_neg (by simp [Config.wf, h0])]

theorem step_not_refused {s : State} (h0 : 0 < s.cfg.tapeSize) (r : Refusal) : step s ≠ .refused r := by
  obtain ⟨hzero, -⟩ | ⟨-, -, e⟩ | ⟨-, rest, -, e⟩ | ⟨-, m, rest, -, -, e⟩ := step_cases s
  · omega
  · exact e ▸ engineMove_not_refused s r
  · exact e ▸ engineMove_not_refused (s.setMoves rest) r
  · exact e ▸ nofun

/-- Settles O7: `TAPE_SIZE` is checked before the move, and neither a host move nor an engine move is refused. -/
theorem onlyZeroTapeSizeIsRefused : Obligations.OnlyZeroTapeSizeIsRefused :=
  fun _ => ⟨step_of_no_engine, step_not_refused⟩

/-! ### A LOAD that fails (R176) -/

theorem State.load_of_too_long {s : State} {q : List Byte} (h : s.cfg.progCapacity < q.length) :
    s.load q = s.respond .loadFailure :=
  if_pos h

/-- Settles O14: the machine step takes the LOAD, which only answers LoadFailure. -/
theorem tooLongLoadChangesNothing : Obligations.TooLongLoadChangesNothing := by
  intro s q rest h0 hm hb hp hlong
  have htoo : (s.setPending rest).cfg.progCapacity < q.length := hlong
  rw [step_eq_engineMove h0 hm, engineMove_of_pending hb hp, serve, State.load_of_too_long htoo]
  rfl

/-! ### The host's moves (R181) -/

/-- Settles O52: a host move but RESET writes only the host's side, and a machine step whose next host move is an offer,
a change of taking or a command is that move. -/
theorem hostWritesEngineOnlyByReset : Obligations.HostWritesEngineOnlyByReset := by
  refine ⟨?frame, ?offer, ?taking, ?command⟩
  case frame =>
    intro m s hm
    refine ⟨HostMove.apply_arch hm s, m.apply_cfg s, ?_⟩
    cases m with
    | reset => exact absurd rfl hm
    | pause | command c | offer x | setTaking b => exact ⟨rfl, rfl, rfl, rfl, rfl⟩
  case offer => exact fun _ x _ h0 hm => step_eq_hostMove (m := .offer x) h0 nofun hm
  case taking => exact fun _ b _ h0 hm => step_eq_hostMove (m := .setTaking b) h0 nofun hm
  case command => exact fun _ c _ h0 hm => step_eq_hostMove (m := .command c) h0 nofun hm

/-! ### The idle engine (R185) -/

theorem engineMove_of_idle {s : State} (hb : s.busy = none) (hp : s.pending = []) (hr : s.runs = 0) :
    engineMove s = .next s := by
  simp only [engineMove, hb, hp, hr]

/-- Settles O54: an idle state is a fixed point of the machine step. -/
theorem idleEngineIsQuiescent : Obligations.IdleEngineIsQuiescent := by
  intro k s h0 hm hb hp hr
  have hfixed : step s = .next s := (step_eq_engineMove h0 hm).trans (engineMove_of_idle hb hp hr)
  exact run_of_fixed (M := Sys2Proof.core) hfixed k

end Sys2Proof.Machine
end

section
/-! SUPPORT. RESET, LOAD and what does not influence a step (`70_reset_and_hazards.md`): the reset state (R200, R203), a
LOAD that fits (R204, R205), the commands that wait (R212), and the host's past (R208). -/

namespace Sys2Proof.Machine

/-! ### RESET (R200, R203) -/

/-- RESET gives the architectural state of `State.reset`, from any state. -/
theorem State.resetEngine_arch (s : State) : s.resetEngine.arch = State.reset.arch := rfl

/-- Settles O4: the values are those `resetEngine` writes; an empty store reads 0x00, an empty program is exhausted. -/
theorem resetLeavesResetValues : Obligations.ResetLeavesResetValues := by
  refine ⟨fun s => ?_, (State.resetEngine_arch _).symm, rfl⟩
  exact ⟨Memory.read_nil, rfl, rfl, rfl, rfl, s.resetEngine.status_eq_halted rfl (Nat.zero_le 0), rfl, rfl⟩

/-- Settles O5: RESET is a host move, and a machine step whose next host move is no pause is that move, whatever the
engine is doing. -/
theorem resetIsTakenAtAnyTime : Obligations.ResetIsTakenAtAnyTime := by
  intro s rest h0 hm
  have hstep : step s = .next (s.setMoves rest).resetEngine := step_eq_hostMove (m := .reset) h0 nofun hm
  exact ⟨_, hstep, State.resetEngine_arch _, rfl, rfl, rfl, rfl, rfl, rfl, rfl, rfl, rfl, rfl⟩

/-! ### A LOAD that fits (R204, R205) -/

theorem step_of_load {s : State} {q : List Byte} {rest : List Command} (h0 : 0 < s.cfg.tapeSize) (hm : s.moves = [])
    (hb : s.busy = none) (hp : s.pending = .load q :: rest) : step s = .next ((s.setPending rest).load q) := by
  rw [step_eq_engineMove h0 hm, engineMove_of_pending hb hp, serve]

/-- The store that LOAD fills lists no address at or above the new `PSIZE`. -/
theorem State.load_prog_below_of_fits {s : State} {q : List Byte} (h : q.length ≤ s.cfg.progCapacity) :
    (s.load q).prog.below q.length := by
  rw [State.load_prog_of_fits h]
  exact Memory.ofBytes_below q

/-- Settles O13: the machine step takes the LOAD, which replaces the program and answers LoadOK. -/
theorem loadReplacesProgram : Obligations.LoadReplacesProgram := by
  intro s q rest h0 hm hb hp hlen
  have hfit : q.length ≤ (s.setPending rest).cfg.progCapacity := hlen
  refine ⟨_, step_of_load h0 hm hb hp, ?frame, fun _ ha => State.fetch_load_of_fits hfit ha,
    State.load_prog_below_of_fits hfit⟩
  case frame =>
    rw [State.load_of_fits hfit]
    rfl

/-! ### Commands wait while a step is in progress (R212) -/

/-- A step of the Stepper takes no command and adds none: the one it runs for has left the queue already. -/
theorem stepper_keeps_pending {who : Issuer} {s t : State} (h : stepper who s = .next t) : t.pending = s.pending := by
  obtain ⟨-, rfl⟩ | ⟨-, -, rfl⟩ | ⟨-, -, u, hu, rfl⟩ := stepper_next_cases h
  · simp
  · simp
  · simpa using (exec_keepsCommands hu).pending

/-- Settles O51: a step in progress is what the engine moves on with, and an arrival is a host move. -/
theorem commandsWaitDuringStep : Obligations.CommandsWaitDuringStep := by
  refine ⟨?waiting, fun _ c _ h0 hm => step_eq_hostMove (m := .command c) h0 nofun hm⟩
  case waiting =>
    intro s t who hb hpause h
    obtain ⟨-, ⟨m, rest, hne, hm, -⟩ | ⟨ms, -, hmove⟩⟩ := step_next_cases h
    · -- a host move that is no pause: excluded by hypothesis
      exact absurd hpause (by simp [hm, hne])
    · rw [engineMove_of_busy (s := s.setMoves ms) hb] at hmove
      exact stepper_keeps_pending (s := s.setMoves ms) hmove

/-! ### The host's past does not influence a step (R208)

Every layer of a machine step commutes with putting an earlier history in front of what the host has received: the
outcome is the same, and a next state differs in that history alone. -/

/-- The host had received the bytes `o` and the answers `r` before everything it has received in `s`. -/
def State.withPast (o : List Byte) (r : List Response) (s : State) : State :=
  { s with output := o ++ s.output, responses := r ++ s.responses }

/-- `res`, with the earlier history `o`, `r` in its next state if it has one. -/
def resultWithPast (o : List Byte) (r : List Response) (res : Result) : Result :=
  match res with
  | .next s => .next (s.withPast o r)
  | .fault e => .fault e
  | .refused e => .refused e

section
variable {o : List Byte} {r : List Response}

@[simp] theorem State.withPast_input (s : State) : (s.withPast o r).input = s.input := rfl

/-- The guard of the current cell does not read the past. -/
theorem State.onTape_withPast {s : State} {res res' : Result} (h : res' = resultWithPast o r res) :
    (s.withPast o r).onTape res' = resultWithPast o r (s.onTape res) := by
  subst h
  exact (apply_ite (resultWithPast o r) (s.dp < s.cfg.tapeSize) res (.fault .tapeAddress)).symm

theorem resultWithPast_ite {c : Prop} [Decidable c] {a b a' b' : Result} (ha : a' = resultWithPast o r a)
    (hb : b' = resultWithPast o r b) : (if c then a' else b') = resultWithPast o r (if c then a else b) := by
  rw [apply_ite (resultWithPast o r), ha, hb]

theorem State.branch_withPast (s : State) (m : Option Nat) :
    (s.withPast o r).branch m = (s.branch m).withPast o r := by
  cases m <;> rfl

/-- A byte handed over joins the past at the end. -/
theorem State.handOver_withPast (s : State) (v : Byte) :
    (s.withPast o r).handOver v = (s.handOver v).withPast o r := by
  simp [State.handOver, State.withPast]

/-- An answer joins the past at the end. -/
theorem State.respond_withPast (s : State) (a : Response) :
    (s.withPast o r).respond a = (s.respond a).withPast o r := by
  simp [State.respond, State.withPast]

theorem State.load_withPast (s : State) (q : List Byte) : (s.withPast o r).load q = (s.load q).withPast o r := by
  obtain ⟨hlong, hfail⟩ | ⟨hfit, hload⟩ := s.load_cases q
  · rw [hfail, State.load_of_too_long (s := s.withPast o r) hlong, State.respond_withPast]
  · rw [hload, State.load_of_fits (s := s.withPast o r) hfit, ← State.respond_withPast]
    rfl

theorem State.answer_withPast (s : State) (who : Issuer) (a : StepResult) :
    (s.withPast o r).answer who a = (s.answer who a).withPast o r := by
  cases who <;> cases a <;> simp [State.answer, State.withPast]

theorem State.settle_withPast (s : State) (who : Issuer) :
    (s.withPast o r).settle who = (s.settle who).withPast o r := by
  obtain ⟨hport, e⟩ | ⟨hport, herr, e⟩ | ⟨hport, herr, e⟩ := s.settle_cases who <;> rw [e]
  · exact State.settle_of_waiting (s := s.withPast o r) hport who
  · exact (State.settle_of_raised (s := s.withPast o r) hport herr who).trans (s.answer_withPast who .error)
  · exact (State.settle_of_completed (s := s.withPast o r) hport herr who).trans (s.answer_withPast who .cont)

theorem settleResult_withPast (who : Issuer) (res : Result) :
    settleResult who (resultWithPast o r res) = resultWithPast o r (settleResult who res) := by
  cases res with
  | next s => exact congrArg _ (s.settle_withPast who)
  | fault e | refused e => rfl

/-- OUT alone touches the past, and only appends to it. -/
theorem exec_withPast (i : Instr) (s : State) : exec i (s.withPast o r) = resultWithPast o r (exec i s) := by
  cases i with
  | left | right | nop b => rfl
  | inc | dec => exact State.onTape_withPast rfl
  | out =>
    have htaken : Host.Outcome.next ((s.withPast o r).handOver s.cell).advance =
        resultWithPast o r (.next (s.handOver s.cell).advance) := by
      rw [State.handOver_withPast]
      rfl
    exact State.onTape_withPast (resultWithPast_ite htaken rfl)
  | inp =>
    cases hin : s.input with
    | nil =>
      rw [exec_inp_of_no_item hin, exec_inp_of_no_item (s := s.withPast o r) hin]
      rfl
    | cons x rest =>
      simp only [exec, execInp, State.withPast_input, hin]
      exact State.onTape_withPast rfl
  | jz => exact State.onTape_withPast (resultWithPast_ite (congrArg _ (s.branch_withPast _)) rfl)
  | jnz =>
    exact State.onTape_withPast (resultWithPast_ite rfl (resultWithPast_ite rfl (congrArg _ (s.branch_withPast _))))

theorem stepper_withPast (who : Issuer) (s : State) :
    stepper who (s.withPast o r) = resultWithPast o r (stepper who s) :=
  resultWithPast_ite (congrArg _ (s.answer_withPast who .error))
    (resultWithPast_ite (congrArg _ (s.answer_withPast who .halt))
      ((congrArg (settleResult who) (exec_withPast _ s)).trans (settleResult_withPast who _)))

theorem serve_withPast (c : Command) (s : State) : serve c (s.withPast o r) = resultWithPast o r (serve c s) := by
  cases c with
  | load q => exact congrArg _ (s.load_withPast q)
  | step => exact stepper_withPast .step s
  | run => rfl
  | observe => exact congrArg _ (s.respond_withPast _)

theorem engineMove_withPast (s : State) : engineMove (s.withPast o r) = resultWithPast o r (engineMove s) := by
  obtain ⟨who, hb, e⟩ | ⟨c, rest, hb, hp, e⟩ | ⟨hb, hp, hr, e⟩ | ⟨hb, hp, hr, e⟩ := engineMove_cases s <;>
    rw [e]
  · exact (engineMove_of_busy (s := s.withPast o r) hb).trans (stepper_withPast who s)
  · exact (engineMove_of_pending (s := s.withPast o r) hb hp).trans (serve_withPast c (s.setPending rest))
  · exact engineMove_of_idle (s := s.withPast o r) hb hp hr
  · exact (engineMove_of_run (s := s.withPast o r) hb hp hr).trans (stepper_withPast .run s)

theorem HostMove.apply_withPast (m : HostMove) (s : State) :
    m.apply (s.withPast o r) = (m.apply s).withPast o r := by
  cases m <;> rfl

theorem step_withPast (s : State) : step (s.withPast o r) = resultWithPast o r (step s) := by
  obtain ⟨h0, e⟩ | ⟨h0, hm, e⟩ | ⟨h0, rest, hm, e⟩ | ⟨h0, m, rest, hne, hm, e⟩ := step_cases s <;> rw [e]
  · exact step_of_no_engine (s := s.withPast o r) h0
  · exact (step_eq_engineMove (s := s.withPast o r) h0 hm).trans (engineMove_withPast s)
  · exact (step_eq_engineMove_of_pause (s := s.withPast o r) h0 (.inr hm)).trans
      (engineMove_withPast (s.setMoves rest))
  · exact (step_eq_hostMove (s := s.withPast o r) h0 hne hm).trans (congrArg _ (m.apply_withPast (s.setMoves rest)))

end

/-- Settles O55: the machine step commutes with putting an earlier history in front. -/
theorem pastOutputDoesNotMatter : Obligations.PastOutputDoesNotMatter := by
  intro s t o r h
  exact (step_withPast s).trans (congrArg (resultWithPast o r) h)

end Sys2Proof.Machine
end
